-- ==== Sys2Proof/Word.lean ====
section
/-! DEFINITION. The word types of the 1PPS pulse engine (00_scope.md R8: every value is unsigned, bit 0 is the least
significant; 10_state.md R20 to R35 give the widths). -/

namespace Sys2Proof

/-- A 16-bit command word, event code or counter value (R21, R70). -/
abbrev Word := BitVec 16

/-- An 8-bit operand, mask, timer register or port register (R31 to R34, R71). -/
abbrev Byte := BitVec 8

/-- A program index, 9 bits wide so that 256 can be held (R26, 90_conflicts.md C17). -/
abbrev Index := BitVec 9

/-- A prescaler selector code, 3 bits (R30, R76). -/
abbrev Sel := BitVec 3

end Sys2Proof
end

