-- ==== Sys2Proof/Config.lean ====
section
/-! DEFINITION. What is fixed for a launch and is no register: the model parameters of 00_scope.md R6, the build-time
constants VALIDATE is given (40_validator.md R100), the validated configuration (R5, R111) and VALIDATE's verdict; and the
free values, constants without a body, of the choices the spec leaves open. -/

namespace Sys2Proof

/-- `COUNT_DIR` (R6): the counting convention. -/
inductive CountDir where
  | down
  | up
  deriving DecidableEq, Repr

/-- `RELOAD_FLOOR_POLICY` (R6, R104): whether a reload of 1 to 31 is rejected or only warned of. -/
inductive FloorPolicy where
  | reject
  | warn
  deriving DecidableEq, Repr

/-- The three parameters R6 lets a model take as arguments. -/
structure Params where
  /-- `COUNT_DIR` -/
  countDir : CountDir
  /-- `CNT_READ_ATOMIC` -/
  readAtomic : Bool
  /-- `RELOAD_FLOOR_POLICY` -/
  floorPolicy : FloorPolicy
  deriving DecidableEq, Repr

/-- The fuse dividers, `FUSE_SET` (R6). -/
inductive Fuse where
  | f1
  | f8
  deriving DecidableEq, Repr

/-- The timer prescalers, `PRESCALER_SET` (R6). -/
inductive Prescaler where
  | p1
  | p8
  | p64
  | p256
  | p1024
  deriving DecidableEq, Repr

/-- The seven build-time constants, the operands of VALIDATE (R100): six natural numbers, so that an out-of-range constant
can be written down and rejected, and the u8 pin mask (log entry 14). -/
structure Consts where
  osc : Nat
  fuse : Nat
  presc : Nat
  reload : Nat
  N : Nat
  D : Nat
  mask : Byte
  deriving DecidableEq, Repr

/-- The validated configuration `cfg` (R5, R111). `cfg.sel` is the code of `presc` and is computed from it: `Cfg.sel` in
Machine/Operands.lean (log entry 16). -/
structure Cfg where
  osc : BitVec 32
  fuse : Fuse
  presc : Prescaler
  reload : Byte
  N : Word
  D : Word
  mask : Byte
  deriving DecidableEq, Repr

/-- What VALIDATE returns (R100, R109, R111): an accepted configuration, or the error InvalidTimingConfiguration, each with
the diagnostic word `DIAG` (R108). -/
inductive Verdict where
  | accept (cfg : Cfg) (diag : Byte)
  | reject (diag : Byte)
  deriving DecidableEq, Repr

/-- The defaults of R6. -/
def Params.default : Params := ⟨.down, true, .reject⟩

/-- The constants of the source's scenario, `C_EX` of 95_test_vectors.md, with mask 0x01. DESIGN CHOICE, unsafe (log entry 3). -/
def Consts.scenario : Consts := ⟨19440000, 8, 8, 243, 1250, 10, 0x01⟩

/-- The configuration of `C_EX`. DESIGN CHOICE, unsafe (log entry 3). -/
def Cfg.scenario : Cfg := ⟨19440000, .f8, .p8, 243, 1250, 10, 0x01⟩

/-- FREE VALUE: which of two agents that may both step goes first, at the n-th such choice (60_exceptions.md R208, R210;
93_implementation_defined.md item 15). Nothing constrains it (log entry 5). -/
opaque Config.freeChoice : Nat → Bool

/-- FREE VALUE: what LATLO reads as while it is UNDEF (93_implementation_defined.md item 8). Nothing constrains it (log
entry 10). -/
opaque Config.freeLatch : Nat → Byte

end Sys2Proof
end

