-- ==== Sys2Proof/Syntax.lean ====
section
/-! DEFINITION. The one alphabet of commands and event codes (30_encoding.md R72): one constructor per row of
spec/opcode_table.json. -/

namespace Sys2Proof

/-- The operand forms of IMM (R71). -/
inductive Form where
  /-- no operand, IMM = 0x00 -/
  | z
  /-- a prescaler selector in IMM[2:0], IMM[7:3] = 0 -/
  | sel
  /-- a reload value -/
  | u8
  /-- a pin mask -/
  | mask
  /-- a program index -/
  | tgt
  deriving DecidableEq, Repr

/-- The twelve program commands and the three event codes of R72. -/
inductive Instr where
  /-- `reset_mcu()`, R141 -/
  | rst
  /-- `initialize(prescaler_selector)`, R142 -/
  | init (s : Sel)
  /-- `enable_interrupts()`, R144 -/
  | enable
  /-- `configure(prescaler)`, R160 -/
  | tconf (s : Sel)
  /-- `set_reload(value)`, R161 -/
  | treload (v : Byte)
  /-- `install_boundary_handler(callback)`, R164 -/
  | tinst
  /-- `set_direction_output(pin_mask)`, R175 -/
  | pdir (m : Byte)
  /-- `drive_high(pin_mask)`, R176 -/
  | phigh (m : Byte)
  /-- `drive_low(pin_mask)`, R177 -/
  | plow (m : Byte)
  /-- the main loop's read and compare, R125 and R126 -/
  | polls
  /-- the main loop's pin-low write, R127 -/
  | polla
  /-- the main loop's unconditional repeat, R145 -/
  | loop (t : Byte)
  /-- event code: one prescaled tick of the timer, R162 -/
  | tick
  /-- event code: one invocation of the boundary handler, R120 -/
  | irq
  /-- event code: the build-time validator, R100 -/
  | validate
  deriving DecidableEq, Repr

/-- The "program" column of R72: whether a word of this kind may stand in the program store. -/
def Instr.isCommand : Instr → Bool
  | .rst => true
  | .init _ => true
  | .enable => true
  | .tconf _ => true
  | .treload _ => true
  | .tinst => true
  | .pdir _ => true
  | .phigh _ => true
  | .plow _ => true
  | .polls => true
  | .polla => true
  | .loop _ => true
  | .tick => false
  | .irq => false
  | .validate => false

end Sys2Proof
end

