-- ==== Sys2Proof/WellFormed.lean ====
section
/-! DEFINITION. The operand checks of 30_encoding.md R71, R73 and R74: which instruction terms a word can stand for. -/

namespace Sys2Proof

/-- The legal operands: INIT takes selectors 1 to 5, TCONF 0 to 5, TRELOAD 1 to 255; every mask and target is legal
(R71, R73, R74). -/
def Instr.wf : Instr → Bool
  | .rst => true
  | .init s => decide (1 ≤ s.toNat) && decide (s.toNat ≤ 5)
  | .enable => true
  | .tconf s => decide (s.toNat ≤ 5)
  | .treload v => decide (v ≠ 0)
  | .tinst => true
  | .pdir _ => true
  | .phigh _ => true
  | .plow _ => true
  | .polls => true
  | .polla => true
  | .loop _ => true
  | .tick => true
  | .irq => true
  | .validate => true

end Sys2Proof
end

