-- ==== Sys2Proof/Decode.lean ====
section
/-! DEFINITION. The one format CW16 (30_encoding.md R70): Decode of program words (R73), total, rejecting by name; the event
codes (R75); and the encoder, written from the opcode map (R72). -/

namespace Sys2Proof

/-- Why a word is ILLEGAL, one name per item of R74. -/
inductive Illegal where
  /-- an OP that R72 does not list -/
  | unassigned (op : Byte)
  /-- a Z-form opcode with IMM other than 0 -/
  | nonzeroOperand
  /-- INIT or TCONF with IMM[7:3] other than 0 -/
  | selectorHighBits
  /-- INIT with selector 0, 6 or 7, TCONF with selector 6 or 7 -/
  | badSelector (s : Sel)
  /-- TRELOAD with IMM = 0 -/
  | zeroReload
  /-- one of the three event codes, standing in the program -/
  | eventCode
  deriving DecidableEq, Repr

/-- `OP` = bits [15:8] (R70). -/
def opField (w : Word) : Byte := w.extractLsb' 8 8

/-- `IMM` = bits [7:0] (R70). -/
def immField (w : Word) : Byte := w.extractLsb' 0 8

/-- The selector field IMM[2:0] (R71). -/
def selField (imm : Byte) : Sel := imm.extractLsb' 0 3

/-- The bits IMM[7:3], which a SEL operand has 0 (R71). -/
def selHigh (imm : Byte) : BitVec 5 := imm.extractLsb' 3 5

/-- Form Z: no operand (R71). -/
def decodeZ (imm : Byte) (i : Instr) : Except Illegal Instr :=
  if imm = 0 then .ok i else .error .nonzeroOperand

/-- Form SEL with the lowest legal selector `lo`, the highest being 5 (R73). -/
def decodeSel (lo : Nat) (imm : Byte) (mk : Sel → Instr) : Except Illegal Instr :=
  if selHigh imm ≠ 0 then .error .selectorHighBits
  else if lo ≤ (selField imm).toNat ∧ (selField imm).toNat ≤ 5 then .ok (mk (selField imm))
  else .error (.badSelector (selField imm))

/-- Form U8: a reload value, not 0 (R73). -/
def decodeReload (imm : Byte) : Except Illegal Instr :=
  if imm ≠ 0 then .ok (.treload imm) else .error .zeroReload

/-- The opcode of an event code: with IMM = 0 it is an event code, which is no command; otherwise it is not even an event
code (R74, R75). -/
def decodeEventOp (imm : Byte) : Except Illegal Instr :=
  if imm = 0 then .error .eventCode else .error .nonzeroOperand

/-- `Decode(w)` of a word of the program store (R73). -/
def decode (w : Word) : Except Illegal Instr :=
  let imm := immField w
  match (opField w).toNat with
  | 0x01 => decodeZ imm .rst
  | 0x02 => decodeSel 1 imm .init
  | 0x03 => decodeZ imm .enable
  | 0x10 => decodeSel 0 imm .tconf
  | 0x11 => decodeReload imm
  | 0x12 => decodeZ imm .tinst
  | 0x20 => .ok (.pdir imm)
  | 0x21 => .ok (.phigh imm)
  | 0x22 => .ok (.plow imm)
  | 0x30 => decodeZ imm .polls
  | 0x31 => decodeZ imm .polla
  | 0x40 => .ok (.loop imm)
  | 0xE0 => decodeEventOp imm
  | 0xE1 => decodeEventOp imm
  | 0xF0 => decodeEventOp imm
  | _ => .error (.unassigned (opField w))

/-- The three event codes, names of steps of CLOCK, IRQ and the build-time validator in a trace (R75). -/
def decodeEvent (w : Word) : Option Instr :=
  if w = 0xE000 then some .tick
  else if w = 0xE100 then some .irq
  else if w = 0xF000 then some .validate
  else none

/-- The whole alphabet of R72 in the one format of R70: an event code, or else a program word. -/
def decodeCode (w : Word) : Except Illegal Instr :=
  match decodeEvent w with
  | some e => .ok e
  | none => decode w

/-- The instruction read from the `nbits` low bits `w` of a code; every code is one 16-bit word (R70), so there is nothing
above it. -/
def decodeTableWord (nbits w : Nat) : Option Instr :=
  if nbits ≤ 16 ∧ w < 65536 then (decodeCode (BitVec.ofNat 16 w)).toOption else none

/-- The OP byte of each row of R72. -/
def Instr.opcode : Instr → Byte
  | .rst => 0x01
  | .init _ => 0x02
  | .enable => 0x03
  | .tconf _ => 0x10
  | .treload _ => 0x11
  | .tinst => 0x12
  | .pdir _ => 0x20
  | .phigh _ => 0x21
  | .plow _ => 0x22
  | .polls => 0x30
  | .polla => 0x31
  | .loop _ => 0x40
  | .tick => 0xE0
  | .irq => 0xE1
  | .validate => 0xF0

/-- The operand form of each row of R72. -/
def Instr.form : Instr → Form
  | .rst => .z
  | .init _ => .sel
  | .enable => .z
  | .tconf _ => .sel
  | .treload _ => .u8
  | .tinst => .z
  | .pdir _ => .mask
  | .phigh _ => .mask
  | .plow _ => .mask
  | .polls => .z
  | .polla => .z
  | .loop _ => .tgt
  | .tick => .z
  | .irq => .z
  | .validate => .z

/-- The IMM byte: the operand, zero-extended, and 0 in form Z (R71). -/
def Instr.operand : Instr → Byte
  | .rst => 0
  | .init s => s.setWidth 8
  | .enable => 0
  | .tconf s => s.setWidth 8
  | .treload v => v
  | .tinst => 0
  | .pdir m => m
  | .phigh m => m
  | .plow m => m
  | .polls => 0
  | .polla => 0
  | .loop t => t
  | .tick => 0
  | .irq => 0
  | .validate => 0

/-- The code of an instruction: `OP ++ IMM` (R70, R72). -/
def encode (i : Instr) : Word := i.opcode ++ i.operand

/-- The mnemonics of R72. -/
def Instr.mnemonic : Instr → String
  | .rst => "RST"
  | .init _ => "INIT"
  | .enable => "ENABLE"
  | .tconf _ => "TCONF"
  | .treload _ => "TRELOAD"
  | .tinst => "TINST"
  | .pdir _ => "PDIR"
  | .phigh _ => "PHIGH"
  | .plow _ => "PLOW"
  | .polls => "POLLS"
  | .polla => "POLLA"
  | .loop _ => "LOOP"
  | .tick => "TICK"
  | .irq => "IRQ"
  | .validate => "VALIDATE"

end Sys2Proof
end

