-- ==== Sys2Proof/Machine/Operands.lean ====
section
/-! DEFINITION. Operand values: the operand forms (30_encoding.md R71), the prescaler selector codes (R76), and the two
constants derived from the configuration and `COUNT_DIR` (00_scope.md R7). -/

namespace Sys2Proof

/-- The division factor of a prescaler (R76). -/
def Prescaler.value : Prescaler → Nat
  | .p1 => 1
  | .p8 => 8
  | .p64 => 64
  | .p256 => 256
  | .p1024 => 1024

/-- The selector code of a prescaler (R76). -/
def Prescaler.code : Prescaler → Sel
  | .p1 => 1
  | .p8 => 2
  | .p64 => 3
  | .p256 => 4
  | .p1024 => 5

/-- The prescaler a selector code stands for: none for 0 (timer stopped) and for the reserved codes 6 and 7 (R76). -/
def Prescaler.ofCode (s : Sel) : Option Prescaler :=
  match s.toNat with
  | 1 => some .p1
  | 2 => some .p8
  | 3 => some .p64
  | 4 => some .p256
  | 5 => some .p1024
  | _ => none

/-- The prescaler with a given division factor, if the set has it (R101). -/
def Prescaler.ofFactor (n : Nat) : Option Prescaler :=
  if n = 1 then some .p1
  else if n = 8 then some .p8
  else if n = 64 then some .p64
  else if n = 256 then some .p256
  else if n = 1024 then some .p1024
  else none

/-- The division factor of a fuse divider (R6). -/
def Fuse.value : Fuse → Nat
  | .f1 => 1
  | .f8 => 8

/-- The fuse divider with a given factor, if the set has it (R102). -/
def Fuse.ofFactor (n : Nat) : Option Fuse :=
  if n = 1 then some .f1 else if n = 8 then some .f8 else none

/-- `cfg.sel`, the selector code of `cfg.presc` (R5, R111). -/
def Cfg.sel (c : Cfg) : Sel := c.presc.code

/-- Whether an IMM byte is legal in an operand form; SEL's own range per opcode is in `Instr.wf` (R71). -/
def Form.legal (f : Form) (imm : Byte) : Bool :=
  match f with
  | .z => decide (imm = 0)
  | .sel => decide (selHigh imm = 0)
  | .u8 => decide (imm ≠ 0)
  | .mask => true
  | .tgt => true

/-- `INITV`, the initial counter value (R7). -/
def initv (d : CountDir) (c : Cfg) : Word :=
  match d with
  | .down => c.N
  | .up => 0

/-- `THR`, the duty threshold (R7). -/
def thr (d : CountDir) (c : Cfg) : Word :=
  match d with
  | .down => c.N - c.D
  | .up => c.D

/-- `zext_9(t)`, LOOP's target as a program index (R145). -/
def loopTarget (t : Byte) : Index := t.setWidth 9

end Sys2Proof
end

