-- ==== Sys2Proof/Machine/Flags.lean ====
section
/-! DEFINITION. The block's one comparison, the duty decision `PDEC` (41_engine.md R125), the value a split counter read
forms (R126), and the counter's step with its boundary test (R121, R122). The block has no condition codes (10_state.md R39). -/

namespace Sys2Proof

/-- The duty decision on a counter value: a threshold compare, `v <= THR` counting down and `v >= THR` counting up (R125,
92_eei_decisions.md D4). -/
def dutyReached (d : CountDir) (c : Cfg) (v : Word) : Bool :=
  match d with
  | .down => decide (v.toNat ≤ (thr d c).toNat)
  | .up => decide ((thr d c).toNat ≤ v.toNat)

/-- `CNT[7:0]` (R53). -/
def lowByte (v : Word) : Byte := v.extractLsb' 0 8

/-- `CNT[15:8]` (R53). -/
def highByte (v : Word) : Byte := v.extractLsb' 8 8

/-- The value a non-atomic read compares: the high byte now, the low byte from the latch (R126). -/
def splitRead (now : Word) (lo : Byte) : Word := highByte now ++ lo

/-- The counter's successor `c` of R121 and R122, modulo 2^16. -/
def countNext (d : CountDir) (v : Word) : Word :=
  match d with
  | .down => v - 1
  | .up => v + 1

/-- Whether the handler's step is a Boundary: the successor is zero counting down, `cfg.N` counting up (R121, R122, R124). -/
def atBoundary (d : CountDir) (c : Cfg) (v : Word) : Bool :=
  match d with
  | .down => decide (countNext d v = 0)
  | .up => decide (countNext d v = c.N)

/-- The number of periods counted since the last Boundary (R129): `cfg.N - CNT` counting down, `CNT` counting up. -/
def elapsed (d : CountDir) (c : Cfg) (v : Word) : Nat :=
  match d with
  | .down => c.N.toNat - v.toNat
  | .up => v.toNat

/-- The counter values reachable from INIT (R22): 1 to N counting down, 0 to N - 1 counting up. -/
def cntInRange (d : CountDir) (c : Cfg) (v : Word) : Bool :=
  match d with
  | .down => decide (1 ≤ v.toNat) && decide (v.toNat ≤ c.N.toNat)
  | .up => decide (v.toNat < c.N.toNat)

end Sys2Proof
end

