-- ==== Sys2Proof/Machine/State.lean ====
section
/-! DEFINITION. The machine's state as plain data: every register of 10_state.md R20, the parameters of the step relation
(00_scope.md R5, R6; 20_memory.md R51; log entry 2), the model's own scheduling fields (log entry 5), the reasons a step can
stop, and the launch state (70_reset_and_hazards.md R230). -/

namespace Sys2Proof.Machine

/-- The agents of the machine (R10, R210). -/
inductive Agent where
  /-- MAIN, the main context -/
  | main
  /-- IRQ, the boundary handler -/
  | irq
  /-- CLOCK, the timer's prescaled clock -/
  | clock
  deriving DecidableEq, Repr

/-- One (code, info) pair of the fault record, one constructor per way R202 lets a pair be recorded. Code and class are
`FaultEntry.code` and `FaultEntry.isStop` in Machine/Ops.lean. -/
inductive FaultEntry where
  /-- code 1, `F_ILLEGAL`, info (MPC, word): the fetched word decodes to ILLEGAL (R146) -/
  | illegal (mpc : Index) (w : Word)
  /-- code 2, `F_PC_RANGE`, info MPC: a fetch at an index not below PLEN (R52) -/
  | pcRange (mpc : Index)
  /-- code 3, `F_UNDEF_CNT`, info `IRQ` (R120) -/
  | undefCntIrq
  /-- code 3, `F_UNDEF_CNT`, info (MPC, `POLLS`) (R125, R126) -/
  | undefCntPolls (mpc : Index)
  /-- code 4, `F_UNDEF_DEC`, info (MPC, `POLLA`) (R127) -/
  | undefDec (mpc : Index)
  /-- code 5, `F_RELOAD_UNSET`, info `TICK` (R162) -/
  | reloadUnset
  /-- code 6, `F_OVERRUN`, info `TICK`, the one record fault (R163) -/
  | overrun
  /-- code 7, `F_CFG_MISMATCH`, info (MPC, s) (R143) -/
  | cfgMismatch (mpc : Index) (s : Sel)
  deriving DecidableEq, Repr

/-- The state. UNDEF, a value of CNT, PDEC and LATLO in the spec (R20), is `none`. -/
structure State where
  /-- `COUNT_DIR`, `CNT_READ_ATOMIC`, `RELOAD_FLOOR_POLICY` (R6); no step writes them -/
  params : Params
  /-- the build-time constants VALIDATE is given (R100); no step writes them -/
  consts : Consts
  /-- VALIDATE's verdict: `none` before the build, then the accepted configuration or the rejection (R109, R111, R115) -/
  verdict : Option Verdict
  /-- the program store, indices 0 to PLEN - 1 (R50, R51); no step writes it. Empty while no program is loaded: there is then no
  machine (`State.loaded`, log entry 4) -/
  prog : List Word
  /-- `CNT`, the shared pulse counter (R21) -/
  cnt : Option Word
  /-- `PDEC`, the duty decision latch (R23) -/
  pdec : Option Bool
  /-- `LATLO`, the low byte of a non-atomic counter read (R24) -/
  latlo : Option Byte
  /-- `MSUB`, the sub-step of a non-atomic POLLS (R25) -/
  msub : Bool
  /-- `MPC`, the main program index (R26) -/
  mpc : Index
  /-- `GIE`, the global interrupt enable (R27) -/
  gie : Bool
  /-- `TIE`, the timer interrupt enable (R28) -/
  tie : Bool
  /-- `PEND`, the timer interrupt pending flag (R29) -/
  pend : Bool
  /-- `TSEL`, the prescaler selector, 0 = stopped (R30) -/
  tsel : Sel
  /-- `TRLD`, the reload register, 0 = unprogrammed (R31) -/
  trld : Byte
  /-- `TCNT`, the timer count (R32) -/
  tcnt : Byte
  /-- `DIR`, the pin directions, 1 = output (R33) -/
  dir : Byte
  /-- `LVL`, the pin levels (R34) -/
  lvl : Byte
  /-- `FAULT`, the fault record (R35), in the canonical form `FaultSet.wf` (log entry 8) -/
  fault : List FaultEntry
  /-- THE MODEL'S OWN: the coming choices of the agent that steps (R210, log entries 5 and 6) -/
  sched : List Agent
  /-- THE MODEL'S OWN: how many free values have been used (log entries 5 and 10) -/
  choices : Nat
  deriving DecidableEq, Repr

/-- Why the machine stops. -/
inductive Fault where
  /-- Raised by `step` when no agent may step: a stop fault is recorded, and the state is quiescent for ever (R200, R220;
  93 item 14, `stuck`). Safe: the hardware of the spec takes no step there either. -/
  | quiescent
  deriving DecidableEq, Repr

/-- Why a step has no meaning. -/
inductive Refusal where
  /-- Raised by `exec` for an instruction that has no meaning yet; no arm uses it. Safe: nothing can be proved of a run
  through it. -/
  | notModelled (mnemonic : String)
  /-- Raised by `step` and by every instruction but VALIDATE when the verdict is not an acceptance that VALIDATE gives for the
  build constants: the machine is not defined for it (R109, R115; 93 item 1, `refuse`). Safe: no machine exists. -/
  | noDeviceImage
  /-- Raised by `step` and by every instruction but VALIDATE when the configuration is accepted and the program store does not
  hold 1 to 256 words: no program is loaded, and R50 gives no machine for it (log entry 4). Safe: no machine exists. -/
  | noProgram
  deriving DecidableEq, Repr

/-- The launch state (R230) of the machine with these launch parameters: every register at the launch value the spec
gives, the program store and the configuration as they are for the launch. -/
def State.launch (params : Params) (consts : Consts) (verdict : Option Verdict) (prog : List Word) : State where
  params := params
  consts := consts
  verdict := verdict
  prog := prog
  cnt := none
  pdec := none
  latlo := none
  msub := false
  mpc := 0
  gie := false
  tie := false
  pend := false
  tsel := 0
  trld := 0
  tcnt := 0
  dir := 0x00
  lvl := 0x00
  fault := []
  sched := []
  choices := 0

/-- The machine right after reset: the launch state, with the default parameters of R6, the configuration of the source's
scenario (DESIGN CHOICE, unsafe, log entry 3), and no program loaded yet, so that no agent has a step (DESIGN CHOICE, safe, log
entry 4). -/
def State.reset : State :=
  State.launch Params.default Consts.scenario (some (.accept Cfg.scenario 0x00)) []

end Sys2Proof.Machine
end

