-- ==== Sys2Proof/Machine/Validator.lean ====
section
/-! DEFINITION. The build-time parameter validator VALIDATE (40_validator.md R100 to R115): a pure function of seven constants
and the floor policy, and the build step that evaluates it before the machine exists (log entry 12). -/

namespace Sys2Proof

/-- `E_PRESCALER` (R101). -/
def ePrescaler (k : Consts) : Bool := !([1, 8, 64, 256, 1024].contains k.presc)

/-- `E_FUSE` (R102). -/
def eFuse (k : Consts) : Bool := !([1, 8].contains k.fuse)

/-- `E_FACTORIZATION`, over the unbounded naturals (R103). -/
def eFactorization (k : Consts) : Bool := decide (k.osc ≠ k.fuse * k.presc * k.reload * k.N)

/-- `E_RELOAD_RANGE` under each policy (R104). -/
def eReloadRange (p : FloorPolicy) (k : Consts) : Bool :=
  match p with
  | .reject => decide (k.reload < 32) || decide (255 < k.reload)
  | .warn => decide (k.reload < 1) || decide (255 < k.reload)

/-- `W_RELOAD_LOW` under each policy (R104). -/
def wReloadLow (p : FloorPolicy) (k : Consts) : Bool :=
  match p with
  | .reject => false
  | .warn => decide (1 ≤ k.reload) && decide (k.reload ≤ 31)

/-- `E_REPEAT_RANGE` (R105). -/
def eRepeatRange (k : Consts) : Bool := decide (k.N < 1) || decide (65535 < k.N)

/-- `E_DUTY_RANGE`, on the raw N (R106). -/
def eDutyRange (k : Consts) : Bool := !(decide (1 ≤ k.D) && decide (k.D < k.N))

/-- `E_OSC_RANGE` (R107). -/
def eOscRange (k : Consts) : Bool := decide (4294967295 < k.osc)

/-- One bit of `DIAG`: the bit `m` when the check failed. -/
def diagBit (failed : Bool) (m : Byte) : Byte := if failed then m else 0

/-- The diagnostic word `DIAG`, every check evaluated (R100, R108). -/
def diagOf (p : FloorPolicy) (k : Consts) : Byte :=
  diagBit (ePrescaler k) 0x01 ||| diagBit (eFactorization k) 0x02 ||| diagBit (eReloadRange p k) 0x04 |||
  diagBit (eRepeatRange k) 0x08 ||| diagBit (eDutyRange k) 0x10 ||| diagBit (eFuse k) 0x20 |||
  diagBit (eOscRange k) 0x40 ||| diagBit (wReloadLow p k) 0x80

/-- The configuration made of the constants (R111). It is used only for accepted constants, whose prescaler and fuse are in
their sets and whose numbers fit. -/
def cfgOf (k : Consts) : Cfg where
  osc := BitVec.ofNat 32 k.osc
  fuse := (Fuse.ofFactor k.fuse).getD .f1
  presc := (Prescaler.ofFactor k.presc).getD .p1
  reload := BitVec.ofNat 8 k.reload
  N := BitVec.ofNat 16 k.N
  D := BitVec.ofNat 16 k.D
  mask := k.mask

/-- `VALIDATE` (R100, R109, R111): accept exactly when `DIAG[6:0] = 0`. -/
def validate (p : FloorPolicy) (k : Consts) : Verdict :=
  if diagOf p k &&& 0x7F = 0 then .accept (cfgOf k) (diagOf p k) else .reject (diagOf p k)

/-- The message of each `DIAG` bit (R110). -/
def diagMessage (bit : Nat) : String :=
  match bit with
  | 0 => "unsupported prescaler value"
  | 1 => "factorization mismatch: oscillator_hz != fuse_divider * timer_prescaler * timer_reload * isr_repeat_count"
  | 2 => "timer_reload out of range"
  | 3 => "isr_repeat_count out of range"
  | 4 => "duty_on_count out of range"
  | 5 => "unsupported fuse divider"
  | 6 => "oscillator_hz out of range"
  | _ => "warning: timer_reload below recommended floor 32 (latent jitter risk)"

/-- The diagnostic word a verdict carries (R100, R108). -/
def Verdict.diag : Verdict → Byte
  | .accept _ d => d
  | .reject d => d

/-- The messages a verdict reports: one for each set bit of its DIAG, in bit order (R110, D8 of 92_eei_decisions.md). So a
rejection reports each failed check, and the warning too when bit 7 is set as well (DEDUCED, safe, log entry 25); an accepted
configuration, which has no error bit, reports the warning when bit 7 is set. -/
def Verdict.messages (v : Verdict) : List String := ((List.range 8).filter v.diag.getLsbD).map diagMessage

/-- The error kind's test: InvalidTimingConfiguration (R109). -/
def Verdict.isInvalidTimingConfiguration : Verdict → Bool
  | .accept _ _ => false
  | .reject _ => true

namespace Machine

/-- VALIDATE (R100): evaluates the validator on the build constants. It touches no register of 10_state.md; its result is
the verdict (log entry 12). -/
def execValidate (s : State) : Host.Outcome State Fault Refusal :=
  .next { s with verdict := some (validate s.params.floorPolicy s.consts) }

end Machine

end Sys2Proof
end

