-- ==== Sys2Proof/Machine/Ops.lean ====
section
/-! DEFINITION. The named operations every meaning is written with: the fault record (60_exceptions.md R200 to R202), the
parameters the machine exists with (20_memory.md R50, 40_validator.md R115), the fetch (20_memory.md R52), the interrupt's
delivery, entry and return (R206, R209), the port writes (44_gpio.md) and the program index (10_state.md R26). -/

namespace Sys2Proof.Machine

/-! ### The fault record -/

/-- The fault's code (R202). -/
def FaultEntry.code : FaultEntry → Nat
  | .illegal _ _ => 1
  | .pcRange _ => 2
  | .undefCntIrq => 3
  | .undefCntPolls _ => 3
  | .undefDec _ => 4
  | .reloadUnset => 5
  | .overrun => 6
  | .cfgMismatch _ _ => 7

/-- Whether the fault is a stop fault; only `F_OVERRUN` is a record fault (R200). -/
def FaultEntry.isStop : FaultEntry → Bool
  | .illegal _ _ => true
  | .pcRange _ => true
  | .undefCntIrq => true
  | .undefCntPolls _ => true
  | .undefDec _ => true
  | .reloadUnset => true
  | .overrun => false
  | .cfgMismatch _ _ => true

/-- The place of a pair in the canonical order of a fault record: its code first, then its info. -/
def FaultEntry.key : FaultEntry → Nat
  | .illegal m w => 0x100000000 + m.toNat * 0x10000 + w.toNat
  | .pcRange m => 0x200000000 + m.toNat
  | .undefCntIrq => 0x300000000
  | .undefCntPolls m => 0x300000001 + m.toNat
  | .undefDec m => 0x400000000 + m.toNat
  | .reloadUnset => 0x500000000
  | .overrun => 0x600000000
  | .cfgMismatch m s => 0x700000000 + m.toNat * 8 + s.toNat

/-- Adding a pair to the set `FAULT` (R35, R201), in its place; a pair that is there stays there once. -/
def FaultSet.insert (e : FaultEntry) : List FaultEntry → List FaultEntry
  | [] => [e]
  | x :: xs =>
    if e.key < x.key then e :: x :: xs
    else if e.key = x.key then x :: xs
    else x :: FaultSet.insert e xs

/-- The canonical form of a fault record: strictly rising keys. -/
abbrev FaultSet.wf (l : List FaultEntry) : Prop := l.Pairwise (fun a b => a.key < b.key)

/-- `record Fault(code, info)` (R201): the pair is added and the step goes on. -/
def State.recordFault (e : FaultEntry) (s : State) : State :=
  { s with fault := FaultSet.insert e s.fault }

/-- `raise Fault(code, info)` of a stop fault (R200, R201): the step ends with the pair added and no other write. This is
the ONE way an exception is taken; nothing returns from it. -/
def raiseStop (e : FaultEntry) (s : State) : Host.Outcome State Fault Refusal :=
  .next (s.recordFault e)

/-- Whether a stop fault is recorded (R200). -/
def State.stopped (s : State) : Bool := s.fault.any FaultEntry.isStop

/-! ### The parameters of the machine -/

/-- The accepted configuration, if there is one: the acceptance the verdict holds must be the one VALIDATE gives for the build
constants (R111, R115), so that no state has a configuration VALIDATE did not accept. -/
def State.accepted? (s : State) : Option Cfg :=
  match s.verdict with
  | some (.accept c d) => if validate s.params.floorPolicy s.consts = .accept c d then some c else none
  | some (.reject _) => none
  | none => none

/-- A program is loaded: 1 ≤ PLEN ≤ `PROG_MAX` = 256 (R50). -/
def State.loaded (s : State) : Bool := decide (1 ≤ s.prog.length) && decide (s.prog.length ≤ 256)

/-- `cfg`, where the machine exists: a program is loaded and VALIDATE accepted the configuration (R5, R50, R115). -/
def State.cfg? (s : State) : Option Cfg := if s.loaded then s.accepted? else none

/-- Why there is no machine. -/
def State.absence (s : State) : Refusal := if s.accepted?.isSome then .noProgram else .noDeviceImage

/-- A rule of the machine, which has `cfg` as a parameter: it is defined only where the machine exists (R50, R115). -/
def withCfg (s : State) (f : Cfg → Host.Outcome State Fault Refusal) : Host.Outcome State Fault Refusal :=
  match s.cfg? with
  | some c => f c
  | none => .refused s.absence

/-! ### The main program index -/

/-- `ProgFetch(i)`: the word at index i below PLEN (R52). -/
def progFetch (s : State) (i : Index) : Option Word := s.prog[i.toNat]?

/-- `MPC <- MPC + 1`, on 9 bits (R26, R8). -/
def State.advance (s : State) : State := { s with mpc := s.mpc + 1 }

/-! ### The interrupt -/

/-- The interrupt is deliverable (R206). -/
def State.deliverable (s : State) : Bool := !s.stopped && s.gie && s.tie && s.pend

/-- Handler entry (R209): `PEND` is cleared and no state is saved. -/
def State.enterHandler (s : State) : State := { s with pend := false }

/-- Return from the handler (R209): the main context resumes with everything as it is; nothing is restored. -/
def State.leaveHandler (s : State) : State := s

/-! ### The port -/

/-- `set_direction_output`: one atomic read-modify-write of `DIR` (R56, R175). -/
def State.makeOutput (m : Byte) (s : State) : State := { s with dir := s.dir ||| m }

/-- `drive_high`: one atomic read-modify-write of `LVL` (R56, R176). -/
def State.driveHigh (m : Byte) (s : State) : State := { s with lvl := s.lvl ||| m }

/-- `drive_low`: one atomic read-modify-write of `LVL` (R56, R177). -/
def State.driveLow (m : Byte) (s : State) : State := { s with lvl := s.lvl &&& ~~~m }

/-! ### A new launch -/

/-- A full device reset (R230): the run ends, and the next one starts from the launch state with the program store and the
configuration fixed for it. It is not the command RST (R231) and no step of an agent. -/
def State.relaunch (s : State) : State := State.launch s.params s.consts s.verdict s.prog

end Sys2Proof.Machine
end

