-- ==== Sys2Proof/Machine/Engine.lean ====
section
/-! DEFINITION. The counting engine (41_engine.md): the boundary handler IRQ (R120 to R124), the main loop's read and compare
POLLS (R125, R126) and its pin-low write POLLA (R127). -/

namespace Sys2Proof.Machine

/-- The handler's body on the counter value `v` (R121, R122): at a Boundary the counter goes back to INITV and the strobe
pins high, otherwise the counter takes its successor. -/
def handlerBody (c : Cfg) (v : Word) (s : State) : State :=
  if atBoundary s.params.countDir c v then
    { s with cnt := some (initv s.params.countDir c) }.driveHigh c.mask
  else
    { s with cnt := some (countNext s.params.countDir v) }

/-- IRQ, one invocation of the boundary handler, one atomic step (R120). -/
def execIrq (s : State) : Host.Outcome State Fault Refusal :=
  withCfg s fun c =>
    match s.cnt with
    | none => raiseStop .undefCntIrq s
    | some v => .next (handlerBody c v s.enterHandler).leaveHandler

/-- Latching the duty decision on the value read, and on to the next command (R125, R126). -/
def decideDuty (c : Cfg) (v : Word) (s : State) : State :=
  { s with pdec := some (dutyReached s.params.countDir c v) }.advance

/-- LATLO as the second half of a split read uses it. While it is UNDEF, which no run reaches there, it reads as the next
free value (93 item 8; log entry 10). -/
def latchedLow (s : State) : Byte :=
  match s.latlo with
  | some b => b
  | none => Config.freeLatch s.choices

/-- The free-value counter after `latchedLow` (log entry 10). -/
def choicesAfterLatch (s : State) : Nat :=
  match s.latlo with
  | some _ => s.choices
  | none => s.choices + 1

/-- POLLS (R125), and its two halves when `CNT_READ_ATOMIC = false` (R126). The second half finds CNT written; in a state
no run reaches, where it is UNDEF, it raises POLLS's own fault (log entry 11). -/
def execPolls (s : State) : Host.Outcome State Fault Refusal :=
  withCfg s fun c =>
    match s.cnt with
    | none => raiseStop (.undefCntPolls s.mpc) s
    | some v =>
      if s.params.readAtomic then .next (decideDuty c v s)
      else if s.msub then
        .next (decideDuty c (splitRead v (latchedLow s)) { s with msub := false, choices := choicesAfterLatch s })
      else .next { s with latlo := some (lowByte v), msub := true }

/-- POLLA: the strobe pins low when the latched decision says so; the decision is kept (R127). -/
def execPolla (s : State) : Host.Outcome State Fault Refusal :=
  withCfg s fun c =>
    match s.pdec with
    | none => raiseStop (.undefDec s.mpc) s
    | some true => .next (s.driveLow c.mask).advance
    | some false => .next s.advance

end Sys2Proof.Machine
end

