-- ==== Sys2Proof/Machine/Gpio.lean ====
section
/-! DEFINITION. The GPIO collaborator's commands (44_gpio.md): PDIR (R175), PHIGH (R176) and PLOW (R177). -/

namespace Sys2Proof.Machine

/-- PDIR m: the pins of the mask become outputs (R175). -/
def execPdir (m : Byte) (s : State) : Host.Outcome State Fault Refusal :=
  withCfg s fun _ => .next (s.makeOutput m).advance

/-- PHIGH m: the pins of the mask go high (R176). -/
def execPhigh (m : Byte) (s : State) : Host.Outcome State Fault Refusal :=
  withCfg s fun _ => .next (s.driveHigh m).advance

/-- PLOW m: the pins of the mask go low (R177). -/
def execPlow (m : Byte) (s : State) : Host.Outcome State Fault Refusal :=
  withCfg s fun _ => .next (s.driveLow m).advance

end Sys2Proof.Machine
end

