-- ==== Sys2Proof/Machine/Lifecycle.lean ====
section
/-! DEFINITION. The lifecycle commands (42_lifecycle.md): RST (R141), INIT (R142, R143), ENABLE (R144) and LOOP (R145). -/

namespace Sys2Proof.Machine

/-- The peripheral registers at their launch values (R141, R231). -/
def resetPeripherals (s : State) : State :=
  { s with gie := false, tie := false, pend := false, tsel := 0, trld := 0, tcnt := 0, dir := 0x00, lvl := 0x00 }

/-- RST: the peripherals to their launch values; CNT, PDEC, LATLO, MSUB and FAULT stay (R141). -/
def execRst (s : State) : Host.Outcome State Fault Refusal :=
  withCfg s fun _ => .next (resetPeripherals s).advance

/-- INIT's effect with the validated selector, one atomic step (R142). It does not write LATLO, so with a non-atomic counter read LATLO
is one more place, beside the four of R240, where a restart may differ from the boot (DEDUCED, safe, log entry 29). -/
def initialise (c : Cfg) (s : State) : State :=
  (({ s with
      gie := false
      cnt := some (initv s.params.countDir c)
      tsel := c.sel
      trld := c.reload
      tcnt := 0
      pend := false
      tie := true }.driveLow c.mask).makeOutput c.mask).advance

/-- INIT s: its operand must be the validated selector, or it raises F_CFG_MISMATCH and writes nothing else (R142, R143). -/
def execInit (sel : Sel) (s : State) : Host.Outcome State Fault Refusal :=
  withCfg s fun c =>
    if sel ≠ c.sel then raiseStop (.cfgMismatch s.mpc sel) s
    else .next (initialise c s)

/-- ENABLE (R144). -/
def execEnable (s : State) : Host.Outcome State Fault Refusal :=
  withCfg s fun _ => .next { s with gie := true }.advance

/-- LOOP t: the one command that does not advance the index by one (R145). -/
def execLoop (t : Byte) (s : State) : Host.Outcome State Fault Refusal :=
  withCfg s fun _ => .next { s with mpc := loopTarget t }

end Sys2Proof.Machine
end

