-- ==== Sys2Proof/Machine/Timer.lean ====
section
/-! DEFINITION. The timer collaborator (43_timer.md): TCONF (R160), TRELOAD (R161), TINST (R164), TICK (R162) and the timer
event (R163). -/

namespace Sys2Proof.Machine

/-- TCONF s: the selector, and a new timer period begins (R160). -/
def execTconf (sel : Sel) (s : State) : Host.Outcome State Fault Refusal :=
  withCfg s fun _ => .next { s with tsel := sel, tcnt := 0 }.advance

/-- TRELOAD v: the reload value, and a new timer period begins (R161). -/
def execTreload (v : Byte) (s : State) : Host.Outcome State Fault Refusal :=
  withCfg s fun _ => .next { s with trld := v, tcnt := 0 }.advance

/-- TINST: the boundary handler, the only one there is, is installed (R164). -/
def execTinst (s : State) : Host.Outcome State Fault Refusal :=
  withCfg s fun _ => .next { s with tie := true }.advance

/-- `signal Event` (R163): an event that finds the previous one pending, with the handler installed, is lost and recorded. -/
def timerEvent (s : State) : State :=
  if s.pend && s.tie then { s.recordFault .overrun with pend := true } else { s with pend := true }

/-- TICK, one prescaled tick: the count over the naturals, at TRLD back to 0 with an event (R162). -/
def execTick (s : State) : Host.Outcome State Fault Refusal :=
  withCfg s fun _ =>
    if s.trld = 0 then raiseStop .reloadUnset s
    else if s.trld.toNat ≤ s.tcnt.toNat + 1 then .next (timerEvent { s with tcnt := 0 })
    else .next { s with tcnt := s.tcnt + 1 }

end Sys2Proof.Machine
end

