-- ==== Sys2Proof/Machine/Dispatch.lean ====
section
/-! DEFINITION. One arm per row of the opcode map (30_encoding.md R72), each one direct call of its meaning. -/

namespace Sys2Proof.Machine

def exec (i : Instr) (s : State) : Host.Outcome State Fault Refusal :=
  match i with
  | .rst => Sys2Proof.Machine.execRst s
  | .init sel => Sys2Proof.Machine.execInit sel s
  | .enable => Sys2Proof.Machine.execEnable s
  | .tconf sel => Sys2Proof.Machine.execTconf sel s
  | .treload v => Sys2Proof.Machine.execTreload v s
  | .tinst => Sys2Proof.Machine.execTinst s
  | .pdir m => Sys2Proof.Machine.execPdir m s
  | .phigh m => Sys2Proof.Machine.execPhigh m s
  | .plow m => Sys2Proof.Machine.execPlow m s
  | .polls => Sys2Proof.Machine.execPolls s
  | .polla => Sys2Proof.Machine.execPolla s
  | .loop t => Sys2Proof.Machine.execLoop t s
  | .tick => Sys2Proof.Machine.execTick s
  | .irq => Sys2Proof.Machine.execIrq s
  | .validate => Sys2Proof.Machine.execValidate s

end Sys2Proof.Machine
end

