-- ==== Sys2Proof/Machine/Agents.lean ====
section
/-! DEFINITION. The agents and their steps: the MAIN step with its fetch and decode (42_lifecycle.md R140), which agent may
step (60_exceptions.md R206, R210), the free choice among those that may (log entries 5 and 6), and the machine's step as a
whole, defined only where a program is loaded (20_memory.md R50) and VALIDATE accepted the configuration (40_validator.md R115). -/

namespace Sys2Proof.Machine

/-- One MAIN step: fetch, decode, execute, the checks in the order of R208 (R140, R146). -/
def mainStep (s : State) : Host.Outcome State Fault Refusal :=
  withCfg s fun _ =>
    match progFetch s s.mpc with
    | none => raiseStop (.pcRange s.mpc) s
    | some w =>
      match decode w with
      | .error _ => raiseStop (.illegal s.mpc w) s
      | .ok i => exec i s

/-- Which agent may step (R206, R210). -/
def mayStep (s : State) : Agent → Bool
  | .main => !s.stopped && !s.deliverable
  | .irq => s.deliverable
  | .clock => !s.stopped && decide (s.tsel ≠ 0)

/-- The step an agent takes (R210). -/
def agentStep (a : Agent) (s : State) : Host.Outcome State Fault Refusal :=
  match a with
  | .main => mainStep s
  | .irq => exec .irq s
  | .clock => exec .tick s

/-- The agents that may step. MAIN and IRQ never both may, so there are at most two. -/
def enabled (s : State) : List Agent := [.main, .irq, .clock].filter (mayStep s)

/-- The coming choices, less those at the front that name an agent which may not step now (log entry 6). -/
def admissible (s : State) : List Agent := s.sched.dropWhile (fun a => !mayStep s a)

/-- Which agent steps now, and the state with that choice taken: the first coming choice that is admissible; without one,
the only agent that may step, or one of the two by a free value. None may step exactly in a quiescent state. -/
def pick (s : State) : Option (Agent × State) :=
  match admissible s with
  | a :: rest => some (a, { s with sched := rest })
  | [] =>
    match enabled s with
    | [] => none
    | [a] => some (a, { s with sched := [] })
    | a :: b :: _ =>
      some (if Config.freeChoice s.choices then b else a, { s with sched := [], choices := s.choices + 1 })

/-- One step of the machine. Before the build has run it is VALIDATE (log entry 12); with no configuration VALIDATE accepted, or
no program loaded, there is no machine (R50, R109, R115); otherwise one agent that may step takes its step (R210), and a quiescent
state has none (R200). -/
def machineStep (s : State) : Host.Outcome State Fault Refusal :=
  match s.verdict with
  | none => exec .validate s
  | some _ =>
    withCfg s fun _ =>
      match pick s with
      | none => .fault .quiescent
      | some (a, t) => agentStep a t

/-! ### Placing one instruction where the next step takes it -/

/-- The program store with `w` at index `i`, filled up to there with the illegal word 0x0000 when it is shorter (R74). -/
def placeWord (prog : List Word) (i : Nat) (w : Word) : List Word :=
  (prog ++ List.replicate (i + 1 - prog.length) 0x0000).set i w

/-- A state whose next step is that of agent `a`, which may step in it: unchanged when it is the only one and nothing else
is coming, otherwise with `a` as the first coming choice. -/
def steer (a : Agent) (s : State) : State :=
  if s.sched = [] ∧ enabled s = [a] then s else { s with sched := a :: s.sched }

/-- A program store of 1 to 256 words (R50): the words there are, up to 256, or the one illegal word 0x0000 (R74). -/
def legalStore (prog : List Word) : List Word :=
  match prog.take 256 with
  | [] => [0x0000]
  | w :: ws => w :: ws

/-- A state in which an agent can step at all: with an accepted configuration, a program loaded and no stop fault. -/
def readyToRun (s : State) : State :=
  { s with
    consts := if s.accepted?.isSome then s.consts else State.reset.consts
    verdict := if s.accepted?.isSome then s.verdict else State.reset.verdict
    prog := legalStore s.prog
    fault := s.fault.filter (fun e => !e.isStop) }

/-- The state whose very next step runs the instruction of code `w`: an event code by letting its agent step (TICK needs a
running timer, IRQ a deliverable interrupt, VALIDATE a build that has not run), any other word by storing it where MAIN
fetches next (log entries 4 and 22). -/
def placeCode (w : Word) (s : State) : State :=
  match decodeEvent w with
  | some .validate => { s with verdict := none }
  | some .tick =>
    let t := readyToRun s
    steer .clock { t with tsel := if t.tsel = 0 then 1 else t.tsel }
  | some .irq =>
    let t := readyToRun s
    steer .irq { t with gie := true, tie := true, pend := true }
  | _ =>
    let t := readyToRun s
    let i : Index := if t.mpc.toNat < 256 then t.mpc else 0
    steer .main
      { t with
        prog := placeWord t.prog i.toNat w
        mpc := i
        pend := if t.deliverable then false else t.pend }

end Sys2Proof.Machine
end

