-- ==== Sys2Proof/Machine/Step.lean ====
section
/-! DEFINITION. One step of the machine (60_exceptions.md R210), in Machine/Agents.lean, and where the next instruction comes
from. -/

namespace Sys2Proof.Machine

/-- One step: a next state, the fault of a quiescent state, or the refusal where no machine exists. -/
def step (s : State) : Host.Outcome State Fault Refusal := machineStep s

/-- `s` with the one-word code `w` placed so that the very next step runs it (log entry 22). A code is 16 bits, so no bits
stand above it. -/
def State.withFetchWord (s : State) (nbits w : Nat) : State :=
  placeCode (BitVec.ofNat 16 (w % 2 ^ nbits)) s

end Sys2Proof.Machine
end

