-- ==== Sys2Proof/Machine/Assembler.lean ====
section
/-! DEFINITION. The assembler syntax (30_encoding.md R78), the pseudo-instructions (R79) and the canonical firmware they spell
(70_reset_and_hazards.md R232). What R78 leaves to the characters of a line is chosen here (log entry 21). -/

namespace Sys2Proof.Asm

/-- The pseudo-instructions (R79). -/
inductive Pseudo where
  | poll
  | boot (s : Sel)
  | spin
  deriving DecidableEq, Repr

/-- The expansion of a pseudo-instruction that starts at index `start` (R79). -/
def Pseudo.expand (start : Nat) : Pseudo → List Instr
  | .poll => [.polls, .polla]
  | .boot s => [.rst, .init s, .enable]
  | .spin => [.polls, .polla, .loop (BitVec.ofNat 8 start)]

/-- The canonical firmware for the selector `s`: `BOOT s` followed by `SPIN` (R232). -/
def canonicalFirmware (s : Sel) : List Instr :=
  (Pseudo.boot s).expand 0 ++ Pseudo.spin.expand 3

/-- Why a program does not assemble. -/
inductive AsmError where
  | noCommand
  | unknownMnemonic
  | eventCode
  | badOperand
  | outOfRange
  | unknownLabel
  | duplicateLabel
  | programEmpty
  | programTooLong
  deriving DecidableEq, Repr

/-- An operand as written (R78). -/
inductive Operand where
  | none
  /-- a number, in decimal or in hex -/
  | num (n : Nat)
  /-- a prescaler value written with a slash -/
  | ratio (n : Nat)
  /-- a mask written as the pins it contains -/
  | pins (l : List Nat)
  /-- a label -/
  | label (l : List Char)
  deriving DecidableEq, Repr

/-- A line: an optional label, a mnemonic, an operand (R78). -/
structure Line where
  label : Option (List Char)
  mnemonic : List Char
  operand : Operand
  deriving DecidableEq, Repr

/-! ### Reading a line -/

def isBlank (c : Char) : Bool := c == ' ' || c == '\t'

def trim (l : List Char) : List Char := ((l.dropWhile isBlank).reverse.dropWhile isBlank).reverse

def digit (c : Char) : Option Nat :=
  if '0' ≤ c ∧ c ≤ '9' then some (c.toNat - 48) else none

def hexDigit (c : Char) : Option Nat :=
  if '0' ≤ c ∧ c ≤ '9' then some (c.toNat - 48)
  else if 'a' ≤ c ∧ c ≤ 'f' then some (c.toNat - 87)
  else if 'A' ≤ c ∧ c ≤ 'F' then some (c.toNat - 55)
  else none

/-- The value of a digit string in a base, after the digits that gave `acc`. -/
def digits (base : Nat) (val : Char → Option Nat) : Nat → List Char → Option Nat
  | acc, [] => some acc
  | acc, c :: cs =>
    match val c with
    | some d => digits base val (acc * base + d) cs
    | none => none

/-- A number in decimal, or in hex as `0x..` (R78). -/
def number (l : List Char) : Option Nat :=
  match l with
  | [] => none
  | ['0', 'x'] => none
  | '0' :: 'x' :: cs => digits 16 hexDigit 0 cs
  | cs => digits 10 digit 0 cs

/-- A comma-separated list, `cur` being the reversed piece under way. -/
def commas : List Char → List Char → List (List Char)
  | cur, [] => [cur.reverse]
  | cur, c :: cs => if c = ',' then cur.reverse :: commas [] cs else commas (c :: cur) cs

def allNumbers : List (List Char) → Option (List Nat)
  | [] => some []
  | p :: ps =>
    match number (trim p), allNumbers ps with
    | some n, some ns => some (n :: ns)
    | _, _ => none

/-- The braces of a pin list. -/
def openBrace : Char := Char.ofNat 123
def closeBrace : Char := Char.ofNat 125

/-- The operand a text stands for (R78). DESIGN CHOICE, safe (log entry 21): a pin list names at least one pin, so an empty one is
rejected, and the empty mask is written as the number 0; every number is read by `number`, so a selector code, a prescaler value after
its slash, a target's index and a pin in braces may be in hex or with leading zeros too, where R78 says so of U8 and MASK alone. -/
def operandOf (t : List Char) : Option Operand :=
  match t with
  | [] => some .none
  | c :: cs =>
    if c = '/' then (number cs).map .ratio
    else if c = openBrace then
      match cs.reverse with
      | d :: inside => if d = closeBrace then (allNumbers (commas [] inside.reverse)).map .pins else none
      | [] => none
    else if (digit c).isSome then (number t).map .num
    else some (.label t)

/-- A line without its comment and label: mnemonic and operand. -/
def commandOf (label : Option (List Char)) (t : List Char) : Except AsmError Line :=
  let body := trim t
  let m := body.takeWhile (fun c => !isBlank c)
  if m = [] then .error .noCommand
  else
    match operandOf (trim (body.dropWhile (fun c => !isBlank c))) with
    | some o => .ok ⟨label, m, o⟩
    | none => .error .badOperand

/-- Reads `[label:] MNEMONIC [operand] [; comment]` (R78). DESIGN CHOICE, safe (log entry 21): the label is whatever stands before the
first colon, less the blanks at its ends, and may be empty; no operand names an empty label. -/
def readLine (t : List Char) : Except AsmError Line :=
  let code := t.takeWhile (· ≠ ';')
  if code.contains ':' then
    commandOf (some (trim (code.takeWhile (· ≠ ':')))) ((code.dropWhile (· ≠ ':')).drop 1)
  else commandOf none code

/-! ### From lines to instructions -/

/-- A selector operand: the code 0 to 5, or the prescaler value it stands for (R76, R78). -/
def selOf : Operand → Except AsmError Sel
  | .num n => if n ≤ 5 then .ok (BitVec.ofNat 3 n) else .error .outOfRange
  | .ratio n =>
    match Prescaler.ofFactor n with
    | some p => .ok p.code
    | none => .error .outOfRange
  | _ => .error .badOperand

/-- A U8 operand, a number of one byte (R78). DESIGN CHOICE, safe (log entry 21): TRELOAD's range 1 to 255 (R71) is not checked here,
so the line `TRELOAD 0` assembles to the word 0x1100, which is ILLEGAL (R74). -/
def byteOf : Operand → Except AsmError Byte
  | .num n => if n ≤ 255 then .ok (BitVec.ofNat 8 n) else .error .outOfRange
  | _ => .error .badOperand

/-- A MASK operand: a number, or the pins it contains (R78). -/
def maskOf : Operand → Except AsmError Byte
  | .pins l =>
    if l.all (fun i => decide (i < 8)) then .ok (l.foldl (fun m i => m ||| BitVec.ofNat 8 (2 ^ i)) 0)
    else .error .outOfRange
  | o => byteOf o

/-- A TGT operand: an index, or the label of the line it stands for (R78). -/
def targetOf (labels : List (List Char × Nat)) : Operand → Except AsmError Byte
  | .label l =>
    match labels.lookup l with
    | some i => if i ≤ 255 then .ok (BitVec.ofNat 8 i) else .error .outOfRange
    | none => .error .unknownLabel
  | o => byteOf o

/-- A Z-form command takes no operand (R78). -/
def noOperand (l : List Instr) : Operand → Except AsmError (List Instr)
  | .none => .ok l
  | _ => .error .badOperand

/-- How many words a line emits: one, or the length of a pseudo-instruction's expansion (R78, R79). -/
def sizeOf (m : List Char) : Nat :=
  if m = "POLL".toList then 2
  else if m = "BOOT".toList then 3
  else if m = "SPIN".toList then 3
  else 1

/-- The instructions of one line that starts at index `start` (R78, R79). -/
def instrsOf (labels : List (List Char × Nat)) (start : Nat) (l : Line) : Except AsmError (List Instr) :=
  let m := l.mnemonic
  let o := l.operand
  if m = "RST".toList then noOperand [.rst] o
  else if m = "INIT".toList then (selOf o).map fun s => [.init s]
  else if m = "ENABLE".toList then noOperand [.enable] o
  else if m = "TCONF".toList then (selOf o).map fun s => [.tconf s]
  else if m = "TRELOAD".toList then (byteOf o).map fun v => [.treload v]
  else if m = "TINST".toList then noOperand [.tinst] o
  else if m = "PDIR".toList then (maskOf o).map fun k => [.pdir k]
  else if m = "PHIGH".toList then (maskOf o).map fun k => [.phigh k]
  else if m = "PLOW".toList then (maskOf o).map fun k => [.plow k]
  else if m = "POLLS".toList then noOperand [.polls] o
  else if m = "POLLA".toList then noOperand [.polla] o
  else if m = "LOOP".toList then (targetOf labels o).map fun t => [.loop t]
  else if m = "POLL".toList then noOperand (Pseudo.poll.expand start) o
  else if m = "BOOT".toList then (selOf o).map fun s => (Pseudo.boot s).expand start
  else if m = "SPIN".toList then
    (if start ≤ 255 then noOperand (Pseudo.spin.expand start) o else .error .outOfRange)
  else if m = "TICK".toList ∨ m = "IRQ".toList ∨ m = "VALIDATE".toList then .error .eventCode
  else .error .unknownMnemonic

/-- The index each label stands for (R78); a label names one line. -/
def labelsOf : Nat → List Line → Except AsmError (List (List Char × Nat))
  | _, [] => .ok []
  | i, l :: ls =>
    match labelsOf (i + sizeOf l.mnemonic) ls with
    | .error e => .error e
    | .ok rest =>
      match l.label with
      | none => .ok rest
      | some n => if (rest.lookup n).isSome then .error .duplicateLabel else .ok ((n, i) :: rest)

/-- The words of the lines from index `start` on (R78). -/
def emit (labels : List (List Char × Nat)) : Nat → List Line → Except AsmError (List Word)
  | _, [] => .ok []
  | i, l :: ls =>
    match instrsOf labels i l with
    | .error e => .error e
    | .ok is =>
      match emit labels (i + sizeOf l.mnemonic) ls with
      | .error e => .error e
      | .ok ws => .ok (is.map encode ++ ws)

/-- The line that writes a command, its operand as a number (R78). -/
def lineOf (i : Instr) : Line where
  label := none
  mnemonic := i.mnemonic.toList
  operand := if i.form = .z then .none else .num i.operand.toNat

def readLines : List String → Except AsmError (List Line)
  | [] => .ok []
  | t :: ts =>
    match readLine t.toList, readLines ts with
    | .error e, _ => .error e
    | .ok _, .error e => .error e
    | .ok l, .ok ls => .ok (l :: ls)

/-- The program store's words of an assembly text, one line per string (R78): 1 to `PROG_MAX` = 256 words (R6, R50). -/
def assemble (src : List String) : Except AsmError (List Word) :=
  match readLines src with
  | .error e => .error e
  | .ok ls =>
    match labelsOf 0 ls with
    | .error e => .error e
    | .ok labels =>
      match emit labels 0 ls with
      | .error e => .error e
      | .ok ws =>
        if ws.length < 1 then .error .programEmpty
        else if ws.length ≤ 256 then .ok ws
        else .error .programTooLong

end Sys2Proof.Asm
end

