-- ==== Sys2Proof/Machine/Pins.lean ====
section
/-! DEFINITION. What can be observed (10_state.md R36, R37; 60_exceptions.md R220): the pins, STROBE and its edges, the source's
state machine as a view of the registers, and the oscillator-cycle counts of a configuration (70_reset_and_hazards.md R243). -/

namespace Sys2Proof.Machine

/-- A pin: high impedance while it is an input, otherwise its level (R36). -/
inductive PinValue where
  | z
  | low
  | high
  deriving DecidableEq, Repr

/-- The pin observation of pin i (R36). -/
def pin (s : State) (i : Nat) : PinValue :=
  if s.dir.getLsbD i then (if s.lvl.getLsbD i then .high else .low) else .z

/-- STROBE, the logical output pin (R36). -/
inductive Strobe where
  | zero
  | one
  | off
  deriving DecidableEq, Repr

/-- The pins a mask selects, `PORT_WIDTH` = 8 (R6, R36). -/
def pinsOf (m : Byte) : List Nat := (List.range 8).filter m.getLsbD

/-- STROBE of a pin mask (R36): 1 or 0 when every pin of the mask is an output at that level, OFF otherwise and for the
empty mask. -/
def strobeOn (m : Byte) (s : State) : Strobe :=
  if m = 0 then .off
  else if (pinsOf m).all (fun i => decide (pin s i = .high)) then .one
  else if (pinsOf m).all (fun i => decide (pin s i = .low)) then .zero
  else .off

/-- STROBE of the machine, on the pins of `cfg.mask` (R36). -/
def strobe (s : State) : Strobe :=
  match s.cfg? with
  | some c => strobeOn c.mask s
  | none => .off

/-- A rising edge of STROBE between the state before a step and the state after (R36). -/
def risingEdge (before after : State) : Bool :=
  decide (strobe after = .one) && decide (strobe before ≠ .one)

/-- A falling edge of STROBE (R36). -/
def fallingEdge (before after : State) : Bool :=
  decide (strobe after = .zero) && decide (strobe before = .one)

/-- The source's two states of the engine, a view of the registers after INIT (R37). -/
inductive EngineState where
  | accumulating
  | pulsing
  deriving DecidableEq, Repr

/-- Pulsing when STROBE = 1 and Accumulating otherwise (R37). R37 says so of the time after INIT; DESIGN CHOICE, safe (log entry 24):
before the first INIT the view is read off STROBE in the same way. -/
def engineState (s : State) : EngineState :=
  if strobe s = .one then .pulsing else .accumulating

/-- Whether an IRQ step taken in `s` is a Boundary (R37, R124). -/
def isBoundary (s : State) : Bool :=
  match s.cfg?, s.cnt with
  | some c, some v => atBoundary s.params.countDir c v
  | _, _ => false

/-- Whether a POLLA step taken in `s` is a DutyEnd: it clears the strobe pins while STROBE = 1 (R37). -/
def isDutyEnd (s : State) : Bool := decide (s.pdec = some true) && decide (strobe s = .one)

/-- What a run shows of one of its steps (R220): STROBE, its edge if any, and FAULT. DESIGN CHOICE, safe (log entry 28): R220 does not
say how often FAULT is observed, nor whether STROBE of the run's first state is; here each step shows both as they are after it, and
the first state shows nothing. -/
structure Observation where
  strobe : Strobe
  rising : Bool
  falling : Bool
  fault : List FaultEntry
  deriving DecidableEq, Repr

/-- The observation of a step: STROBE and FAULT after it (R220, log entry 28). -/
def observe (before after : State) : Observation :=
  ⟨strobe after, risingEdge before after, fallingEdge before after, after.fault⟩

/-- Oscillator cycles of one prescaled tick (R243). No step depends on these counts: the machine has no time (R220). -/
def cyclesPerTick (c : Cfg) : Nat := c.fuse.value * c.presc.value

/-- Oscillator cycles of one timer period (R113, R243). -/
def cyclesPerPeriod (c : Cfg) : Nat := cyclesPerTick c * c.reload.toNat

/-- Oscillator cycles between two Boundaries, N timer periods (R113, R243). -/
def cyclesPerPulse (c : Cfg) : Nat := cyclesPerPeriod c * c.N.toNat

/-- Oscillator cycles of the nominal high phase, D timer periods (R243). -/
def cyclesHigh (c : Cfg) : Nat := cyclesPerPeriod c * c.D.toNat

end Sys2Proof.Machine
end

