-- ==== Sys2Proof/Safety.lean ====
section
/-! DEFINITION. The terms claims are stated in: what a step leaves unchanged, the invariant every step keeps, runs of the three
agents with every interleaving (60_exceptions.md R210), the premises a claim may name (R221, 70_reset_and_hazards.md R244), the
disjoint-writer discipline (20_memory.md R61) and the map between the two counting conventions (41_engine.md R130). -/

namespace Sys2Proof.Machine

/-! ### What a step leaves unchanged -/

/-- The registers of 10_state.md R20. -/
inductive Reg where
  | cnt
  | pdec
  | latlo
  | msub
  | mpc
  | gie
  | tie
  | pend
  | tsel
  | trld
  | tcnt
  | dir
  | lvl
  | fault
  deriving DecidableEq, Repr

/-- The register holds the same value in both states. -/
def Reg.same (r : Reg) (s t : State) : Prop :=
  match r with
  | .cnt => t.cnt = s.cnt
  | .pdec => t.pdec = s.pdec
  | .latlo => t.latlo = s.latlo
  | .msub => t.msub = s.msub
  | .mpc => t.mpc = s.mpc
  | .gie => t.gie = s.gie
  | .tie => t.tie = s.tie
  | .pend => t.pend = s.pend
  | .tsel => t.tsel = s.tsel
  | .trld => t.trld = s.trld
  | .tcnt => t.tcnt = s.tcnt
  | .dir => t.dir = s.dir
  | .lvl => t.lvl = s.lvl
  | .fault => t.fault = s.fault

/-- The parameters of a launch are the same: the program store, the block's only memory, and the configuration (R5, R51). -/
def SameLaunch (s t : State) : Prop :=
  t.params = s.params ∧ t.consts = s.consts ∧ t.verdict = s.verdict ∧ t.prog = s.prog

/-- The model's own scheduling fields are the same (log entry 5). -/
def SameSchedule (s t : State) : Prop := t.sched = s.sched ∧ t.choices = s.choices

/-- Everything but the listed registers is unchanged: every other register, the program store, the configuration and the
model's own fields. -/
def OnlyChanges (rs : List Reg) (s t : State) : Prop :=
  (∀ r, r ∉ rs → r.same s t) ∧ SameLaunch s t ∧ SameSchedule s t

/-- `FAULT` gained exactly the pair `e` (R201). -/
def AddsFault (e : FaultEntry) (s t : State) : Prop := ∀ x, x ∈ t.fault ↔ x = e ∨ x ∈ s.fault

/-! ### The invariant -/

/-- What holds after every step of a run, in any schedule. -/
structure Invariant (s : State) : Prop where
  /-- the verdict is VALIDATE's on the build constants (R111, R115) -/
  verdictTrue : ∀ v, s.verdict = some v → v = validate s.params.floorPolicy s.consts
  /-- before the build no step has written the counter -/
  unbuilt : s.verdict = none → s.cnt = none
  /-- the counter's range (R22) -/
  cntRange : ∀ c v, s.cfg? = some c → s.cnt = some v → cntInRange s.params.countDir c v = true
  /-- the program index is at most 256 (R26) -/
  mpcMax : s.mpc.toNat ≤ 256
  /-- at most PROG_MAX words (R50); that a machine has at least one is part of `State.cfg?` -/
  progMax : s.prog.length ≤ 256
  /-- selectors 6 and 7 are never written (R30) -/
  tselLegal : s.tsel.toNat ≤ 5
  /-- the timer count stays below the reload value (R32) -/
  tcntBelow : s.trld ≠ 0 → s.tcnt.toNat < s.trld.toNat
  /-- FAULT is in its canonical form -/
  faultCanonical : FaultSet.wf s.fault
  /-- with an atomic counter read MSUB stays 0 and LATLO UNDEF (R24, R25) -/
  atomicNoSplit : s.params.readAtomic = true → s.msub = false ∧ s.latlo = none
  /-- while a split read is under way, the counter and the latch hold values and MPC indexes the POLLS (R126, R140) -/
  splitHeld : s.msub = true → s.cnt ≠ none ∧ s.latlo ≠ none ∧ progFetch s s.mpc = some 0x3000

/-! ### Runs -/

/-- One step of a run: the agent and the states before and after. -/
structure Move where
  agent : Agent
  before : State
  after : State
  deriving DecidableEq, Repr

/-- The command a MAIN step executes in `s`, if the fetch and the decoder give one (R140). -/
def nextCommand (s : State) : Option Instr :=
  match progFetch s s.mpc with
  | none => none
  | some w => (decode w).toOption

/-- The command a move executes, for a MAIN move (R140). -/
def Move.command (m : Move) : Option Instr :=
  match m.agent with
  | .main => nextCommand m.before
  | .irq => none
  | .clock => none

/-- A step the machine admits: the machine exists (R50, R115), the agent may step, and this is its step (R210). -/
def Admits (a : Agent) (s t : State) : Prop :=
  s.cfg?.isSome = true ∧ mayStep s a = true ∧ agentStep a s = .next t

/-- Finite runs, under every choice of agents (R210). -/
inductive Run : State → List Move → State → Prop
  | stop (s : State) : Run s [] s
  | move {s t u : State} {a : Agent} {ms : List Move} (h : Admits a s t) (rest : Run t ms u) : Run s (⟨a, s, t⟩ :: ms) u

/-- A launch state of a machine: a configuration VALIDATE accepted and a program of 1 to 256 words (R50, R115, R230). -/
def IsLaunch (s : State) : Prop := s = s.relaunch ∧ s.cfg?.isSome = true

/-- The states some run reaches from a launch. -/
def Reachable (t : State) : Prop := ∃ s ms, IsLaunch s ∧ Run s ms t

def Move.isIrq (m : Move) : Bool := decide (m.agent = .irq)

def Move.isTick (m : Move) : Bool := decide (m.agent = .clock)

/-- The move is a Boundary (R124). -/
def Move.isBoundary (m : Move) : Bool := m.isIrq && Machine.isBoundary m.before

/-- The move completes a timer period: a timer event (R162, R163). A tick with no reload value programmed signals none: it raises
F_RELOAD_UNSET (R162). -/
def Move.isTimerEvent (m : Move) : Bool :=
  m.isTick && decide (m.before.trld ≠ 0) && decide (m.before.trld.toNat ≤ m.before.tcnt.toNat + 1)

/-- The move starts the engine or the timer afresh: INIT or RST. -/
def Move.restarts (m : Move) : Bool :=
  match m.command with
  | some .rst => true
  | some (.init _) => true
  | _ => false

/-- The move writes the timer's period or count by command: TCONF, TRELOAD, INIT or RST (R166). -/
def Move.retimes (m : Move) : Bool :=
  match m.command with
  | some (.tconf _) => true
  | some (.treload _) => true
  | _ => m.restarts

/-- The move completes a POLLS: it leaves MSUB 0 and the decision latched (R125, R126). -/
def Move.endsPolls (m : Move) : Bool :=
  decide (m.command = some .polls) && !m.after.stopped && !m.after.msub

def Move.isPolla (m : Move) : Bool := decide (m.command = some .polla) && !m.after.stopped

/-- LT1 (R244): `F_OVERRUN` is never recorded. -/
def LT1 (ms : List Move) : Prop := ∀ m ∈ ms, FaultEntry.overrun ∉ m.after.fault

/-- Whether the i-th move of a run is of a kind. -/
def moveAt (f : Move → Bool) (ms : List Move) (i : Nat) : Bool := (ms[i]?).any f

/-- No move strictly between the i-th and the j-th is of a kind. -/
def noneBetween (f : Move → Bool) (ms : List Move) (i j : Nat) : Bool :=
  decide (∀ k < j, i < k → moveAt f ms k = false)

/-- Strictly between the i-th and the j-th move MAIN completes a POLLS and, later, a POLLA. -/
def pollBetween (ms : List Move) (i j : Nat) : Bool :=
  decide (∃ q < j, ∃ p < q, i < p ∧ moveAt Move.endsPolls ms p = true ∧ moveAt Move.isPolla ms q = true)

/-- PR1 (R244): between consecutive IRQ steps MAIN completes a POLLS and the POLLA after it. -/
abbrev PR1 (ms : List Move) : Prop :=
  ∀ j < ms.length, ∀ i < j, moveAt Move.isIrq ms i = true → moveAt Move.isIrq ms j = true →
    noneBetween Move.isIrq ms i j = true → pollBetween ms i j = true

/-- PR2 (R244): no Boundary falls between a POLLS and the next POLLA. DESIGN CHOICE, safe (log entry 26): of a non-atomic POLLS either
half counts as the POLLS, so a Boundary between its two halves breaks PR2. -/
abbrev PR2 (ms : List Move) : Prop :=
  ∀ q < ms.length, ∀ p < q, moveAt (fun m => decide (m.command = some .polls)) ms p = true → moveAt Move.isPolla ms q = true →
    noneBetween Move.isPolla ms p q = true → noneBetween Move.isBoundary ms p q = true

/-- An infinite run: the states and the agents that step (R220). -/
def InfiniteRun (r : Nat → State) (who : Nat → Agent) : Prop := ∀ n, Admits (who n) (r n) (r (n + 1))

/-- Weak fairness of every agent (R221): an agent that may step at every point from some point on eventually steps. -/
def WeaklyFair (r : Nat → State) (who : Nat → Agent) : Prop :=
  ∀ a n, (∀ m, n ≤ m → mayStep (r m) a = true) → ∃ m, n ≤ m ∧ who m = a

/-! ### The disjoint-writer discipline -/

/-- The command writes the level or the direction of a pin of the mask from the main program: PHIGH and PLOW (R61), and PDIR (R239,
which names its changes after INIT; here any PDIR, log entry 27). -/
def writesPins (k : Byte) : Instr → Bool
  | .phigh m => decide (m &&& k ≠ 0)
  | .plow m => decide (m &&& k ≠ 0)
  | .pdir m => decide (m &&& k ≠ 0)
  | _ => false

/-- The program keeps the discipline: no PHIGH, PLOW or PDIR on the strobe pins (R61, R239). DESIGN CHOICE, safe (log entry 27): it is
read off the words of the program store, so a word that is never executed, and a PDIR before INIT or of a pin that is an output
already, break it too. -/
def Disciplined (s : State) : Prop :=
  ∀ c w i, s.cfg? = some c → w ∈ s.prog → decode w = .ok i → writesPins c.mask i = false

/-! ### Sequences of one instruction, and of several -/

/-- `n` times the instruction `i`, stopping at the first fault or refusal. -/
def repeatExec (i : Instr) : Nat → State → Host.Outcome State Fault Refusal
  | 0, s => .next s
  | n + 1, s =>
    match exec i s with
    | .next t => repeatExec i n t
    | .fault r => .fault r
    | .refused r => .refused r

/-- The instructions of a list, one after the other, stopping at the first fault or refusal. -/
def execAll : List Instr → State → Host.Outcome State Fault Refusal
  | [], s => .next s
  | i :: is, s =>
    match exec i s with
    | .next t => execAll is t
    | .fault r => .fault r
    | .refused r => .refused r

/-! ### The two counting conventions -/

/-- The UP counter value with the same elapsed count as a DOWN value (R130): `(N - v) mod N`. -/
def upValue (c : Cfg) (v : Word) : Word := BitVec.ofNat 16 ((c.N.toNat - v.toNat) % c.N.toNat)

/-- The UP state with the same elapsed count as a DOWN state (R130). -/
def toUp (s : State) : State :=
  { s with
    params := { s.params with countDir := .up }
    cnt :=
      match s.cfg? with
      | some c => s.cnt.map (upValue c)
      | none => s.cnt }

/-- An outcome with its next state mapped. -/
def mapNext (f : State → State) : Host.Outcome State Fault Refusal → Host.Outcome State Fault Refusal
  | .next s => .next (f s)
  | .fault r => .fault r
  | .refused r => .refused r

end Sys2Proof.Machine
end

