-- ==== Sys2Proof/Certificates/Slice0/Obligations.lean ====
section
/-! DEFINITION. The statements for the provers. Each docstring names the rule of spec/ it formalises or rests on. Registers of a
state are compared with `OnlyChanges` (Safety.lean): every register not listed, the program store, the configuration and the
model's scheduling fields are unchanged. `s.cfg?` is the configuration where the machine exists (20_memory.md R50, 40_validator.md
R115): PLEN is 1 to 256, and the verdict is an acceptance VALIDATE gives for the build constants. -/

open Sys2Proof Sys2Proof.Machine

/-! ### Encoding -/

/-- 30_encoding.md R70 to R75: reading the code of a well-formed instruction gives that instruction back, operands whole; for a
command also as a program word. -/
def Obligations.DecodeInvertsEncode : Prop :=
  ∀ i : Instr, i.wf = true →
    decodeCode (encode i) = .ok i ∧ (i.isCommand = true → decode (encode i) = .ok i)

/-- 30_encoding.md R72, R73: a program word that decodes is the code of exactly the command it decodes to, a well-formed one. -/
def Obligations.EncodeInvertsDecode : Prop :=
  ∀ (w : Word) (i : Instr), decode w = .ok i → encode i = w ∧ i.wf = true ∧ i.isCommand = true

/-- R74: the ILLEGAL words are exactly those listed, and MAIN's step on one raises `F_ILLEGAL` and changes nothing else. -/
def Obligations.IllegalWordsAreTheListed : Prop :=
  (∀ w : Word, (∃ e, decode w = .error e) ↔
    ((w.extractLsb' 8 8).toNat ∉
        [0x01, 0x02, 0x03, 0x10, 0x11, 0x12, 0x20, 0x21, 0x22, 0x30, 0x31, 0x40, 0xE0, 0xE1, 0xF0] ∨
      ((w.extractLsb' 8 8).toNat ∈ [0x01, 0x03, 0x12, 0x30, 0x31, 0xE0, 0xE1, 0xF0] ∧ w.extractLsb' 0 8 ≠ 0) ∨
      ((w.extractLsb' 8 8).toNat ∈ [0x02, 0x10] ∧ w.extractLsb' 3 5 ≠ 0) ∨
      ((w.extractLsb' 8 8).toNat = 0x02 ∧ (w.extractLsb' 0 3).toNat ∈ [0, 6, 7]) ∨
      ((w.extractLsb' 8 8).toNat = 0x10 ∧ (w.extractLsb' 0 3).toNat ∈ [6, 7]) ∨
      ((w.extractLsb' 8 8).toNat = 0x11 ∧ w.extractLsb' 0 8 = 0) ∨
      w ∈ [0xE000#16, 0xE100#16, 0xF000#16])) ∧
  (∀ (s : State) (w : Word) (e : Illegal), s.cfg?.isSome = true → progFetch s s.mpc = some w → decode w = .error e →
    ∃ t, mainStep s = .next t ∧ AddsFault (.illegal s.mpc w) s t ∧ t.stopped = true ∧ OnlyChanges [.fault] s t) ∧
  ∃ e, decode 0x0000#16 = .error e

/-- R75: the three event codes name the steps of CLOCK, IRQ and the validator; in a program they are ILLEGAL, no program word
decodes to one, and with a nonzero IMM they are not even event codes. -/
def Obligations.EventCodesAreNoCommands : Prop :=
  decodeCode 0xE000#16 = .ok .tick ∧ decodeCode 0xE100#16 = .ok .irq ∧ decodeCode 0xF000#16 = .ok .validate ∧
  (∀ w : Word, w ∈ [0xE000#16, 0xE100#16, 0xF000#16] → ∃ e, decode w = .error e) ∧
  (∀ w : Word, decode w ≠ .ok .tick ∧ decode w ≠ .ok .irq ∧ decode w ≠ .ok .validate) ∧
  ∀ w : Word, (w.extractLsb' 8 8).toNat ∈ [0xE0, 0xE1, 0xF0] → w.extractLsb' 0 8 ≠ 0 → ∃ e, decodeCode w = .error e

/-- Words of 95_test_vectors.md, written out from the opcode map of 30_encoding.md, decode as listed there. -/
def Obligations.SampleWordsDecode : Prop :=
  decode 0x0100#16 = .ok .rst ∧ decode 0x0202#16 = .ok (.init 2) ∧ decode 0x1000#16 = .ok (.tconf 0) ∧
  decode 0x11F3#16 = .ok (.treload 243) ∧ decode 0x2105#16 = .ok (.phigh 0x05) ∧ decode 0x3100#16 = .ok .polla ∧
  decode 0x40FF#16 = .ok (.loop 255) ∧ decode 0x020A#16 = .error .selectorHighBits ∧
  decode 0x1007#16 = .error (.badSelector 7) ∧ decode 0x1100#16 = .error .zeroReload ∧
  decode 0x2300#16 = .error (.unassigned 0x23)

/-- 30_encoding.md R78: the line that writes a well-formed command assembles, at any index, to the one word of its encoding;
for SEL operands the prescaler written with a slash gives the same word as its code. -/
def Obligations.AssemblerEmitsTheEncoding : Prop :=
  (∀ (i : Instr) (labels : List (List Char × Nat)) (start : Nat), i.wf = true → i.isCommand = true →
    Asm.emit labels start [Asm.lineOf i] = .ok [encode i]) ∧
  ∀ p : Prescaler, Asm.selOf (.ratio p.value) = .ok p.code ∧ Asm.selOf (.num p.code.toNat) = .ok p.code

/-- R79: the three pseudo-instructions expand, at any index that a target can name, to the words listed. -/
def Obligations.PseudoInstructionsExpand : Prop :=
  ∀ start : Nat, start ≤ 255 → ∀ s : Sel,
    ((Asm.Pseudo.expand start .poll).map encode = [0x3000#16, 0x3100#16]) ∧
    ((Asm.Pseudo.expand start (.boot s)).map encode = [0x0100#16, 0x0200#16 ||| s.setWidth 16, 0x0300#16]) ∧
    ((Asm.Pseudo.expand start .spin).map encode = [0x3000#16, 0x3100#16, 0x4000#16 ||| BitVec.ofNat 16 start])

/-! ### The validator -/

/-- 00_scope.md R7 with R105: for an accepted configuration the derived constants fit 16 bits and do not wrap: `INITV` is N or 0,
`THR` is N - D or D over the naturals. -/
def Obligations.DerivedConstantsFit : Prop :=
  ∀ (p : FloorPolicy) (k : Consts) (c : Cfg) (d : Byte), validate p k = .accept c d →
    (initv .down c).toNat = k.N ∧ (initv .up c).toNat = 0 ∧ (thr .down c).toNat = k.N - k.D ∧ (thr .up c).toNat = k.D

/-- R101 to R108: each bit of `DIAG` is set exactly when its own check fails on the raw constants, whatever the others give. -/
def Obligations.DiagReportsEveryCheck : Prop :=
  ∀ (p : FloorPolicy) (k : Consts),
    ((diagOf p k).getLsbD 0 = true ↔ k.presc ∉ [1, 8, 64, 256, 1024]) ∧
    ((diagOf p k).getLsbD 1 = true ↔ k.osc ≠ k.fuse * k.presc * k.reload * k.N) ∧
    ((diagOf .reject k).getLsbD 2 = true ↔ k.reload < 32 ∨ 255 < k.reload) ∧
    ((diagOf .warn k).getLsbD 2 = true ↔ k.reload < 1 ∨ 255 < k.reload) ∧
    ((diagOf p k).getLsbD 3 = true ↔ k.N < 1 ∨ 65535 < k.N) ∧
    ((diagOf p k).getLsbD 4 = true ↔ ¬(1 ≤ k.D ∧ k.D < k.N)) ∧
    ((diagOf p k).getLsbD 5 = true ↔ k.fuse ∉ [1, 8]) ∧
    ((diagOf p k).getLsbD 6 = true ↔ 2 ^ 32 - 1 < k.osc) ∧
    (diagOf .reject k).getLsbD 7 = false ∧
    ((diagOf .warn k).getLsbD 7 = true ↔ 1 ≤ k.reload ∧ k.reload ≤ 31)

/-- R109, R111: VALIDATE rejects exactly when some error bit is set, never for the warning, and an accepted configuration holds
the constants verbatim, with the selector code of its prescaler: 1 for 1, 2 for 8, 3 for 64, 4 for 256, 5 for 1024. -/
def Obligations.ValidateAcceptsExactly : Prop :=
  ∀ (p : FloorPolicy) (k : Consts),
    ((validate p k = .reject (diagOf p k)) ↔ ∃ b, b < 7 ∧ (diagOf p k).getLsbD b = true) ∧
    ((validate p k).isInvalidTimingConfiguration = true ↔ ∃ b, b < 7 ∧ (diagOf p k).getLsbD b = true) ∧
    ∀ (c : Cfg) (d : Byte), validate p k = .accept c d →
      d = diagOf p k ∧ c.osc.toNat = k.osc ∧ c.fuse.value = k.fuse ∧ c.presc.value = k.presc ∧
      c.reload.toNat = k.reload ∧ c.N.toNat = k.N ∧ c.D.toNat = k.D ∧ c.mask = k.mask ∧
      Prescaler.ofCode c.sel = some c.presc ∧ (k.presc = 1 → c.sel = 1) ∧ (k.presc = 8 → c.sel = 2) ∧ (k.presc = 64 → c.sel = 3) ∧
      (k.presc = 256 → c.sel = 4) ∧ (k.presc = 1024 → c.sel = 5)

/-- R113: every accepted configuration factors the oscillator exactly, a second of it is N timer periods, and the repeat and duty
counts lie in their ranges. -/
def Obligations.AcceptedConfigurationFactors : Prop :=
  ∀ (p : FloorPolicy) (k : Consts) (c : Cfg) (d : Byte), validate p k = .accept c d →
    2 ≤ c.N.toNat ∧ c.N.toNat ≤ 65535 ∧ 1 ≤ c.D.toNat ∧ c.D.toNat ≤ c.N.toNat - 1 ∧
    c.fuse.value * c.presc.value * c.reload.toNat * c.N.toNat = c.osc.toNat ∧
    cyclesPerPeriod c = c.fuse.value * c.presc.value * c.reload.toNat ∧ cyclesPerPulse c = c.osc.toNat

/-- 40_validator.md R110 with D8 of 92_eei_decisions.md: the eight message texts; a verdict reports one message for each set bit of
DIAG, in bit order, and no other, so a rejection every failed check, and an accepted configuration the warning exactly when the reload
value is below the floor. (That a rejection with bit 7 set reports the warning too is read from D8, log entry 25.) -/
def Obligations.MessagesNameTheFailedChecks : Prop :=
  (List.range 8).map diagMessage =
    ["unsupported prescaler value",
     "factorization mismatch: oscillator_hz != fuse_divider * timer_prescaler * timer_reload * isr_repeat_count",
     "timer_reload out of range", "isr_repeat_count out of range", "duty_on_count out of range", "unsupported fuse divider",
     "oscillator_hz out of range", "warning: timer_reload below recommended floor 32 (latent jitter risk)"] ∧
  ∀ (p : FloorPolicy) (k : Consts),
    (∀ b, b < 8 → (diagMessage b ∈ (validate p k).messages ↔ (diagOf p k).getLsbD b = true)) ∧
    ((validate p k).messages).Sublist ((List.range 8).map diagMessage) ∧
    (∀ d, validate p k = .reject d → ∃ b, b < 7 ∧ diagMessage b ∈ (validate p k).messages) ∧
    ∀ c d, validate p k = .accept c d →
      (validate p k).messages = if 1 ≤ k.reload ∧ k.reload ≤ 31 then [diagMessage 7] else []

/-- 40_validator.md R100, R112: VALIDATE completes in every state, its result is the verdict on the build constants, and it touches
no register. (That it is a build step of the model is the model's choice, log entry 12.) -/
def Obligations.ValidateTouchesNoRegister : Prop :=
  ∀ s : State, ∃ t, exec .validate s = .next t ∧ t.verdict = some (validate s.params.floorPolicy s.consts) ∧
    (∀ r : Reg, r.same s t) ∧ t.prog = s.prog ∧ t.params = s.params ∧ t.consts = s.consts ∧ SameSchedule s t

/-- 40_validator.md R109, R115: for constants VALIDATE rejects there is no machine: the build step leads to a state that refuses
every further step; no instruction but VALIDATE and no agent's step is defined for them, whatever the state holds as its verdict;
and any state that steps is one before the build, or one whose configuration VALIDATE accepted. (The build step and the refusal's
name are the model's choice, log entries 12 and 13.) -/
def Obligations.RejectedConfigurationHasNoMachine : Prop :=
  (∀ (s : State) (d : Byte), s.verdict = none → validate s.params.floorPolicy s.consts = .reject d →
    ∃ t, step s = .next t ∧ step t = .refused .noDeviceImage) ∧
  (∀ (s : State) (d : Byte), validate s.params.floorPolicy s.consts = .reject d →
    (∀ i : Instr, i ≠ .validate → exec i s = .refused .noDeviceImage) ∧ (∀ a, agentStep a s = .refused .noDeviceImage) ∧
    (s.verdict ≠ none → step s = .refused .noDeviceImage)) ∧
  ∀ s t : State, step s = .next t →
    s.verdict = none ∨ ∃ c d, s.verdict = some (.accept c d) ∧ validate s.params.floorPolicy s.consts = .accept c d ∧ s.cfg? = some c

/-- 20_memory.md R50: an agent steps only with a program store of 1 to 256 words; with an accepted configuration and any other
store, an empty one among them, the step is refused (the refusal's name is the model's choice, log entry 4). With 30_encoding.md R78:
a text that assembles gives 1 to 256 words (that the assembler rejects any other text is the model's choice, log entry 21). -/
def Obligations.ProgramLengthIsLegal : Prop :=
  (∀ (a : Agent) (s t : State), agentStep a s = .next t → 1 ≤ t.prog.length ∧ t.prog.length ≤ 256) ∧
  (∀ (s : State) (c : Cfg) (d : Byte), s.verdict = some (.accept c d) → validate s.params.floorPolicy s.consts = .accept c d →
    ((s.prog.length < 1 ∨ 256 < s.prog.length) ↔ step s = .refused .noProgram)) ∧
  ∀ (src : List String) (ws : List Word), Asm.assemble src = .ok ws → 1 ≤ ws.length ∧ ws.length ≤ 256

/-! ### Lifecycle commands -/

/-- R141: RST. -/
def Obligations.RstResetsPeripherals : Prop :=
  decode 0x0100#16 = .ok .rst ∧
  (∀ s : State, s.cfg?.isSome = true → ∃ t, exec .rst s = .next t ∧
    t.gie = false ∧ t.tie = false ∧ t.pend = false ∧ t.tsel = 0 ∧ t.trld = 0 ∧ t.tcnt = 0 ∧ t.dir = 0x00 ∧ t.lvl = 0x00 ∧
    t.mpc = s.mpc + 1 ∧ strobe t = .off ∧
    OnlyChanges [.gie, .tie, .pend, .tsel, .trld, .tcnt, .dir, .lvl, .mpc] s t) ∧
  ∀ s t u : State, exec .rst s = .next t → exec .rst t = .next u → OnlyChanges [.mpc] t u

/-- R231: RST gives the eight peripheral registers their launch values and leaves CNT, PDEC, LATLO, MSUB and FAULT as they were;
just after a launch it changes nothing but MPC. -/
def Obligations.RstIsNoLaunch : Prop :=
  (∀ s : State, s.cfg?.isSome = true → ∃ t, exec .rst s = .next t ∧
    (∀ r : Reg, r ∈ [Reg.gie, .tie, .pend, .tsel, .trld, .tcnt, .dir, .lvl] → r.same s.relaunch t) ∧
    (∀ r : Reg, r ∈ [Reg.cnt, .pdec, .latlo, .msub, .fault] → r.same s t) ∧ t.mpc = s.mpc + 1) ∧
  ∀ s : State, s.cfg?.isSome = true → ∃ t, exec .rst s.relaunch = .next t ∧ OnlyChanges [.mpc] s.relaunch t

/-- R142: INIT with the validated selector. -/
def Obligations.InitProgramsTheEngine : Prop :=
  (∀ x : Sel, 1 ≤ x.toNat → x.toNat ≤ 5 → decode (0x0200#16 ||| x.setWidth 16) = .ok (.init x)) ∧
  (∀ (s : State) (c : Cfg), s.cfg? = some c →
    ∃ t, exec (.init c.sel) s = .next t ∧
      t.gie = false ∧ (s.params.countDir = .down → t.cnt = some c.N) ∧ (s.params.countDir = .up → t.cnt = some 0) ∧
      t.lvl = s.lvl &&& ~~~c.mask ∧ t.dir = s.dir ||| c.mask ∧ t.tsel = c.sel ∧ t.trld = c.reload ∧ t.tcnt = 0 ∧
      t.pend = false ∧ t.tie = true ∧ t.mpc = s.mpc + 1 ∧
      t.lvl &&& ~~~c.mask = s.lvl &&& ~~~c.mask ∧ t.dir &&& ~~~c.mask = s.dir &&& ~~~c.mask ∧
      (c.mask ≠ 0 → strobe t = .zero) ∧
      OnlyChanges [.gie, .cnt, .lvl, .dir, .tsel, .trld, .tcnt, .pend, .tie, .mpc] s t) ∧
  ∀ (s : State) (c : Cfg) (x : Sel), s.cfg? = some c → x ≠ c.sel →
    ∃ t, exec (.init x) s = .next t ∧ AddsFault (.cfgMismatch s.mpc x) s t ∧ OnlyChanges [.fault] s t

/-- R143: INIT with any other selector raises the stop fault F_CFG_MISMATCH and changes nothing else. -/
def Obligations.InitMismatchStops : Prop :=
  ∀ (s : State) (c : Cfg) (x : Sel), s.cfg? = some c → x ≠ c.sel →
    ∃ t, exec (.init x) s = .next t ∧ AddsFault (.cfgMismatch s.mpc x) s t ∧ t.stopped = true ∧ OnlyChanges [.fault] s t

/-- R147: INIT has on every register the effect of the collaborator commands listed, executed as one step, with GIE, CNT and
PEND written and MPC advanced once; and only INIT writes CNT from the main context, only INIT, RST and IRQ clear PEND. -/
def Obligations.InitIsACommandSequence : Prop :=
  (∀ (s : State) (c : Cfg), s.cfg? = some c →
    ∃ t u, exec (.init c.sel) s = .next t ∧
      execAll [.plow c.mask, .pdir c.mask, .tconf c.sel, .treload c.reload, .tinst]
        { s with gie := false, cnt := some (initv s.params.countDir c), pend := false } = .next u ∧
      t.mpc = s.mpc + 1 ∧ OnlyChanges [.mpc] u t) ∧
  ∀ (i : Instr) (s t : State), exec i s = .next t →
    (i.isCommand = true → t.cnt ≠ s.cnt → ∃ x, i = .init x) ∧
    (s.pend = true → t.pend = false → i = .rst ∨ i = .irq ∨ ∃ x, i = .init x)

/-- R144: ENABLE. -/
def Obligations.EnableSetsGie : Prop :=
  decode 0x0300#16 = .ok .enable ∧
  (∀ s : State, s.cfg?.isSome = true →
    ∃ t, exec .enable s = .next t ∧ t.gie = true ∧ t.mpc = s.mpc + 1 ∧ OnlyChanges [.gie, .mpc] s t ∧
    (s.gie = true → OnlyChanges [.mpc] s t) ∧
    (s.stopped = false → s.tie = true → s.pend = true → mayStep t .irq = true ∧ mayStep t .main = false)) ∧
  ∀ (i : Instr) (s t : State), exec i s = .next t → s.gie = true → t.gie = false → i = .rst ∨ ∃ x, i = .init x

/-- R145: LOOP sets MPC to its target and nothing else; a target beyond the program faults at the next fetch. -/
def Obligations.LoopSetsTheIndex : Prop :=
  (∀ t : Byte, decode (0x4000#16 ||| t.setWidth 16) = .ok (.loop t)) ∧
  ∀ (t : Byte) (s : State), s.cfg?.isSome = true →
    ∃ u, exec (.loop t) s = .next u ∧ u.mpc.toNat = t.toNat ∧ OnlyChanges [.mpc] s u ∧
    (s.prog.length ≤ t.toNat → ∃ v, mainStep u = .next v ∧ AddsFault (.pcRange u.mpc) u v ∧ OnlyChanges [.fault] u v)

/-- 10_state.md R26: a command that ends in no stop fault advances MPC by one, save LOOP and the first half of a non-atomic
POLLS; the steps that are no commands leave MPC as it is (60_exceptions.md R209). -/
def Obligations.CommandsAdvanceTheIndex : Prop :=
  ∀ (i : Instr) (s t : State), exec i s = .next t →
    (i.isCommand = true → t.stopped = false → (∀ x, i ≠ .loop x) → (i = .polls → s.params.readAtomic = true ∨ s.msub = true) →
      t.mpc = s.mpc + 1) ∧
    (i = .polls → s.params.readAtomic = false → s.msub = false → t.mpc = s.mpc) ∧
    (i.isCommand = false → t.mpc = s.mpc)

/-- R146: an ILLEGAL word is not executed and nothing is skipped past it. -/
def Obligations.IllegalWordStops : Prop :=
  ∀ (s : State) (w : Word) (e : Illegal), s.cfg?.isSome = true → progFetch s s.mpc = some w → decode w = .error e →
    ∃ t, mainStep s = .next t ∧ AddsFault (.illegal s.mpc w) s t ∧ t.stopped = true ∧ OnlyChanges [.fault] s t

/-- R52: the fetch gives the word at an index below PLEN, and raises F_PC_RANGE at any other. -/
def Obligations.FetchStopsPastTheEnd : Prop :=
  (∀ (s : State) (i : Index) (h : i.toNat < s.prog.length), progFetch s i = some (s.prog[i.toNat])) ∧
  ∀ s : State, s.cfg?.isSome = true → s.prog.length ≤ s.mpc.toNat →
    ∃ t, mainStep s = .next t ∧ AddsFault (.pcRange s.mpc) s t ∧ t.stopped = true ∧ OnlyChanges [.fault] s t

/-- 60_exceptions.md R208: one MAIN step records at most one fault: the fetch's, else the decoder's, else the command's own. -/
def Obligations.MainFaultsInOrder : Prop :=
  ∀ (s t : State) (x : FaultEntry), mainStep s = .next t → x ∈ t.fault → x ∉ s.fault →
    (s.prog.length ≤ s.mpc.toNat ∧ x = .pcRange s.mpc) ∨
    (∃ w e, progFetch s s.mpc = some w ∧ decode w = .error e ∧ x = .illegal s.mpc w) ∨
    (∃ w i, progFetch s s.mpc = some w ∧ decode w = .ok i ∧
      ((∃ y c, i = .init y ∧ s.cfg? = some c ∧ y ≠ c.sel ∧ x = .cfgMismatch s.mpc y) ∨
       (i = .polls ∧ s.cnt = none ∧ x = .undefCntPolls s.mpc) ∨
       (i = .polla ∧ s.pdec = none ∧ x = .undefDec s.mpc)))

/-! ### The timer -/

/-- R160: TCONF sets the selector and begins a new period; selector 0 stops the clock. -/
def Obligations.TconfSelectsAndRestarts : Prop :=
  (∀ x : Sel, x.toNat ≤ 5 → decode (0x1000#16 ||| x.setWidth 16) = .ok (.tconf x)) ∧
  ∀ (x : Sel) (s : State), x.toNat ≤ 5 → s.cfg?.isSome = true → ∃ t, exec (.tconf x) s = .next t ∧ t.tsel = x ∧ t.tcnt = 0 ∧ t.mpc = s.mpc + 1 ∧
    OnlyChanges [.tsel, .tcnt, .mpc] s t ∧ (x = 0 → mayStep t .clock = false)

/-- R161: TRELOAD sets the period and begins a new one; it does not start a stopped timer. -/
def Obligations.TreloadSetsThePeriod : Prop :=
  (∀ v : Byte, v ≠ 0 → decode (0x1100#16 ||| v.setWidth 16) = .ok (.treload v)) ∧
  ∀ (v : Byte) (s : State), v ≠ 0 → s.cfg?.isSome = true → ∃ t, exec (.treload v) s = .next t ∧ t.trld = v ∧ t.tcnt = 0 ∧ t.mpc = s.mpc + 1 ∧
    OnlyChanges [.trld, .tcnt, .mpc] s t ∧ t.tcnt.toNat < t.trld.toNat ∧
    mayStep t .clock = mayStep s .clock

/-- R164: TINST installs the handler; nothing but RST uninstalls it. -/
def Obligations.TinstInstallsTheHandler : Prop :=
  decode 0x1200#16 = .ok .tinst ∧
  (∀ s : State, s.cfg?.isSome = true → ∃ t, exec .tinst s = .next t ∧ t.tie = true ∧ t.mpc = s.mpc + 1 ∧ OnlyChanges [.tie, .mpc] s t ∧
    (s.tie = true → OnlyChanges [.mpc] s t)) ∧
  ∀ (i : Instr) (s t : State), exec i s = .next t → s.tie = true → t.tie = false → i = .rst

/-- R162, R163: TICK counts, over the naturals; the tick that reaches the reload value restarts the count with a timer event, which
sets PEND and records F_OVERRUN when the previous event still waits for an installed handler; with no reload value programmed it
raises F_RELOAD_UNSET. -/
def Obligations.TickCountsOnePeriod : Prop :=
  decodeCode 0xE000#16 = .ok .tick ∧
  ∀ s : State, s.cfg?.isSome = true → ∃ t, exec .tick s = .next t ∧
    (if s.trld = 0 then AddsFault .reloadUnset s t ∧ t.stopped = true ∧ OnlyChanges [.fault] s t
     else if s.tcnt.toNat + 1 < s.trld.toNat then t.tcnt.toNat = s.tcnt.toNat + 1 ∧ OnlyChanges [.tcnt] s t
     else if s.pend = true ∧ s.tie = true then
       t.tcnt = 0 ∧ t.pend = true ∧ AddsFault .overrun s t ∧ t.stopped = s.stopped ∧ OnlyChanges [.tcnt, .pend, .fault] s t
     else t.tcnt = 0 ∧ t.pend = true ∧ OnlyChanges [.tcnt, .pend] s t)

/-- R166: over any stretch of a run, in any schedule, with no TCONF, TRELOAD, INIT or RST, the timer events are one per reload
value of ticks: exactly one in every `TRLD` ticks, and from TCNT = 0 the first at the `TRLD`-th. -/
def Obligations.TimerPeriodContract : Prop :=
  ∀ (s t : State) (ms : List Move), Run s ms t → s.trld ≠ 0 → s.tcnt.toNat < s.trld.toNat →
    (∀ m ∈ ms, m.retimes = false) →
    (ms.filter Move.isTimerEvent).length = (s.tcnt.toNat + (ms.filter Move.isTick).length) / s.trld.toNat ∧
    t.tcnt.toNat = (s.tcnt.toNat + (ms.filter Move.isTick).length) % s.trld.toNat ∧ t.trld = s.trld ∧
    ((ms.filter Move.isTick).length = s.trld.toNat → (ms.filter Move.isTimerEvent).length = 1) ∧
    (s.tcnt = 0 → (ms.filter Move.isTick).length < s.trld.toNat → (ms.filter Move.isTimerEvent).length = 0)

/-! ### The port -/

/-- R175, R176, R177: PDIR, PHIGH and PLOW; and no command but RST makes a pin an input again. -/
def Obligations.PortCommandsWriteTheirMask : Prop :=
  (∀ m : Byte, decode (0x2000#16 ||| m.setWidth 16) = .ok (.pdir m) ∧ decode (0x2100#16 ||| m.setWidth 16) = .ok (.phigh m) ∧
    decode (0x2200#16 ||| m.setWidth 16) = .ok (.plow m)) ∧
  (∀ (i : Instr) (s t : State), exec i s = .next t → s.dir &&& ~~~t.dir ≠ 0 → i = .rst) ∧
  ∀ (m : Byte) (s : State), s.cfg?.isSome = true →
    (∃ t, exec (.pdir m) s = .next t ∧ t.mpc = s.mpc + 1 ∧ OnlyChanges [.dir, .mpc] s t ∧ t.dir = s.dir ||| m ∧
      (∀ i, m.getLsbD i = true → pin t i = if s.lvl.getLsbD i then .high else .low) ∧
      (∀ i, m.getLsbD i = false → pin t i = pin s i)) ∧
    (∃ t, exec (.phigh m) s = .next t ∧ t.mpc = s.mpc + 1 ∧ OnlyChanges [.lvl, .mpc] s t ∧ t.lvl = s.lvl ||| m ∧
      (∀ i, m.getLsbD i = true → s.dir.getLsbD i = true → pin t i = .high) ∧
      (∀ i, m.getLsbD i = false ∨ s.dir.getLsbD i = false → pin t i = pin s i)) ∧
    (∃ t, exec (.plow m) s = .next t ∧ t.mpc = s.mpc + 1 ∧ OnlyChanges [.lvl, .mpc] s t ∧ t.lvl = s.lvl &&& ~~~m ∧
      (∀ i, m.getLsbD i = true → s.dir.getLsbD i = true → pin t i = .low) ∧
      (∀ i, m.getLsbD i = false ∨ s.dir.getLsbD i = false → pin t i = pin s i))

/-- 44_gpio.md R178: when INIT, IRQ or POLLA runs, the pins of the mask, if they carried one level, carry one level after it; and
with one level, and outputs, STROBE is not OFF. -/
def Obligations.StrobePinsMoveTogether : Prop :=
  (∀ (i : Instr) (s t : State) (c : Cfg), s.cfg? = some c → (i = .irq ∨ i = .polla ∨ ∃ x, i = .init x) →
    (s.lvl &&& c.mask = 0 ∨ s.lvl &&& c.mask = c.mask) → exec i s = .next t →
    t.lvl &&& c.mask = 0 ∨ t.lvl &&& c.mask = c.mask) ∧
  ∀ (s : State) (c : Cfg), s.cfg? = some c → c.mask ≠ 0 → s.dir &&& c.mask = c.mask →
    (s.lvl &&& c.mask = 0 ∨ s.lvl &&& c.mask = c.mask) → strobe s ≠ .off

/-- 10_state.md R36: STROBE read pin by pin is STROBE read by masks: 1 when every strobe pin is an output at 1, 0 when every one is
an output at 0, OFF otherwise and for the empty mask. -/
def Obligations.StrobeByMasks : Prop :=
  ∀ (s : State) (c : Cfg), s.cfg? = some c →
    (strobe s = .one ↔ c.mask ≠ 0 ∧ s.dir &&& c.mask = c.mask ∧ s.lvl &&& c.mask = c.mask) ∧
    (strobe s = .zero ↔ c.mask ≠ 0 ∧ s.dir &&& c.mask = c.mask ∧ s.lvl &&& c.mask = 0) ∧
    (strobe s = .off ↔ c.mask = 0 ∨ s.dir &&& c.mask ≠ c.mask ∨ (s.lvl &&& c.mask ≠ c.mask ∧ s.lvl &&& c.mask ≠ 0))

/-! ### The counting engine -/

/-- R120, R121, R122: one invocation of the boundary handler. -/
def Obligations.IrqCountsOrReloads : Prop :=
  decodeCode 0xE100#16 = .ok .irq ∧
  (∀ (s : State) (c : Cfg), s.cfg? = some c → s.cnt = none →
    ∃ t, exec .irq s = .next t ∧ AddsFault .undefCntIrq s t ∧ t.stopped = true ∧ OnlyChanges [.fault] s t) ∧
  ∀ (s : State) (c : Cfg) (v : Word), s.cfg? = some c → s.cnt = some v →
    ∃ t, exec .irq s = .next t ∧ t.pend = false ∧
      (if s.params.countDir = .down then
         (if v - 1 = 0 then t.cnt = some c.N ∧ t.lvl = s.lvl ||| c.mask ∧ OnlyChanges [.cnt, .lvl, .pend] s t
          else t.cnt = some (v - 1) ∧ OnlyChanges [.cnt, .pend] s t)
       else
         (if v + 1 = c.N then t.cnt = some 0 ∧ t.lvl = s.lvl ||| c.mask ∧ OnlyChanges [.cnt, .lvl, .pend] s t
          else t.cnt = some (v + 1) ∧ OnlyChanges [.cnt, .pend] s t))

/-- 41_engine.md R123 with R121, R122: from any counter value, the unreachable ones among them, the n-th of a series of IRQ steps is
the first Boundary for exactly one n: counting down, CNT, or 65536 from 0; counting up, N - CNT below N, and 65536 - CNT + N from
there. -/
def Obligations.FirstBoundaryAfter : Prop :=
  ∀ (s : State) (c : Cfg) (v : Word) (k : Nat), s.cfg? = some c → s.cnt = some v →
    k < (match s.params.countDir with
      | .down => if v = 0 then 65536 else v.toNat
      | .up => if v.toNat < c.N.toNat then c.N.toNat - v.toNat else 65536 - v.toNat + c.N.toNat) →
    ∃ t, repeatExec .irq k s = .next t ∧
      (isBoundary t = true ↔
        k + 1 = (match s.params.countDir with
          | .down => if v = 0 then 65536 else v.toNat
          | .up => if v.toNat < c.N.toNat then c.N.toNat - v.toNat else 65536 - v.toNat + c.N.toNat))

/-- 41_engine.md R128, the period property, over any stretch of a run, in any schedule, with no INIT and no RST: N consecutive IRQ
steps hold exactly one Boundary and bring CNT back, from any starting phase; each Boundary leaves CNT = INITV; and the count of
Boundaries is the count of IRQ steps divided by N. -/
def Obligations.PeriodProperty : Prop :=
  ∀ (s t : State) (ms : List Move) (c : Cfg) (v : Word), Run s ms t → s.cfg? = some c → s.cnt = some v →
    cntInRange s.params.countDir c v = true → (∀ m ∈ ms, m.restarts = false) →
    (ms.filter Move.isBoundary).length =
      (elapsed s.params.countDir c v + (ms.filter Move.isIrq).length) / c.N.toNat ∧
    (∃ v', t.cnt = some v' ∧ cntInRange s.params.countDir c v' = true ∧
      elapsed s.params.countDir c v' =
        (elapsed s.params.countDir c v + (ms.filter Move.isIrq).length) % c.N.toNat) ∧
    (∀ m ∈ ms, m.isBoundary = true → m.after.cnt = some (initv s.params.countDir c)) ∧
    ((ms.filter Move.isIrq).length = c.N.toNat → (ms.filter Move.isBoundary).length = 1 ∧ t.cnt = s.cnt)

/-- 41_engine.md R123, R128: an IRQ step makes a rising edge exactly at a Boundary with STROBE not yet 1 and the strobe pins
outputs, and it never makes a falling edge. -/
def Obligations.BoundaryMakesTheRisingEdge : Prop :=
  ∀ (s t : State) (c : Cfg) (v : Word), s.cfg? = some c → s.cnt = some v → exec .irq s = .next t →
    (risingEdge s t = true ↔
      isBoundary s = true ∧ strobe s ≠ .one ∧ c.mask ≠ 0 ∧ s.dir &&& c.mask = c.mask) ∧
    fallingEdge s t = false

/-- 41_engine.md R124 with 20_memory.md R61: while no PHIGH, PLOW or PDIR of the program names a strobe pin (the discipline as the
model reads it, log entry 27), a Boundary is the only step of the machine that makes a rising edge of STROBE. -/
def Obligations.OnlyBoundariesRaiseTheStrobe : Prop :=
  ∀ (a : Agent) (s t : State), Disciplined s → Admits a s t → risingEdge s t = true → a = .irq ∧ isBoundary s = true

/-- R125: POLLS with an atomic counter read. -/
def Obligations.PollsLatchesTheDecision : Prop :=
  decode 0x3000#16 = .ok .polls ∧
  (∀ (s : State) (c : Cfg), s.cfg? = some c → s.cnt = none → s.params.readAtomic = true →
    ∃ t, exec .polls s = .next t ∧ AddsFault (.undefCntPolls s.mpc) s t ∧ t.stopped = true ∧ OnlyChanges [.fault] s t) ∧
  ∀ (s : State) (c : Cfg) (v : Word), s.cfg? = some c → s.cnt = some v → s.params.readAtomic = true →
    ∃ t, exec .polls s = .next t ∧ t.mpc = s.mpc + 1 ∧ OnlyChanges [.pdec, .mpc] s t ∧
      (s.params.countDir = .down → t.pdec = some (decide (v ≤ c.N - c.D))) ∧
      (s.params.countDir = .up → t.pdec = some (decide (c.D ≤ v)))

/-- 41_engine.md R126: POLLS with a non-atomic counter read is two steps: the low byte is latched first, then the high byte joins
it; with no step between them the result is that of one read; with CNT UNDEF it raises F_UNDEF_CNT. At the second half no run finds
CNT or the latch UNDEF; the model then raises the same fault (its choice, log entry 11), and reads the latch as a free value, the
step still completing (its choice, log entry 10). -/
def Obligations.PollsReadsInTwoHalves : Prop :=
  (∀ (s : State) (c : Cfg), s.cfg? = some c → s.cnt = none → s.params.readAtomic = false →
    ∃ t, exec .polls s = .next t ∧ AddsFault (.undefCntPolls s.mpc) s t ∧ t.stopped = true ∧ OnlyChanges [.fault] s t) ∧
  (∀ (s : State) (c : Cfg) (v : Word), s.cfg? = some c → s.cnt = some v → s.params.readAtomic = false → s.msub = false →
    ∃ t, exec .polls s = .next t ∧ t.latlo = some (v.extractLsb' 0 8) ∧ t.msub = true ∧ OnlyChanges [.latlo, .msub] s t) ∧
  (∀ (s : State) (c : Cfg) (v : Word) (lo : Byte), s.cfg? = some c → s.cnt = some v → s.params.readAtomic = false →
    s.msub = true → s.latlo = some lo →
    ∃ t, exec .polls s = .next t ∧ t.msub = false ∧ t.mpc = s.mpc + 1 ∧ OnlyChanges [.pdec, .msub, .mpc] s t ∧
      (s.params.countDir = .down → t.pdec = some (decide (v.extractLsb' 8 8 ++ lo ≤ c.N - c.D))) ∧
      (s.params.countDir = .up → t.pdec = some (decide (c.D ≤ v.extractLsb' 8 8 ++ lo)))) ∧
  (∀ (s : State) (c : Cfg) (v : Word), s.cfg? = some c → s.cnt = some v → s.params.readAtomic = false →
    s.msub = true → s.latlo = none →
    ∃ t b, exec .polls s = .next t ∧ t.pdec = some b ∧ t.msub = false ∧ t.mpc = s.mpc + 1 ∧
      (∀ r : Reg, r ∉ [Reg.pdec, .msub, .mpc] → r.same s t) ∧ SameLaunch s t) ∧
  ∀ (s : State) (c : Cfg) (v : Word), s.cfg? = some c → s.cnt = some v → s.params.readAtomic = false → s.msub = false →
    ∃ t, execAll [.polls, .polls] s = .next t ∧ t.pdec = some (dutyReached s.params.countDir c v) ∧ t.msub = false ∧
      t.mpc = s.mpc + 1 ∧ OnlyChanges [.pdec, .latlo, .mpc] s t

/-- R127: POLLA. -/
def Obligations.PollaLowersTheStrobe : Prop :=
  decode 0x3100#16 = .ok .polla ∧
  (∀ (s : State) (c : Cfg), s.cfg? = some c → s.pdec = none →
    ∃ t, exec .polla s = .next t ∧ AddsFault (.undefDec s.mpc) s t ∧ t.stopped = true ∧ OnlyChanges [.fault] s t) ∧
  (∀ (s : State) (c : Cfg), s.cfg? = some c → s.pdec = some true →
    ∃ t, exec .polla s = .next t ∧ t.lvl = s.lvl &&& ~~~c.mask ∧ t.mpc = s.mpc + 1 ∧ OnlyChanges [.lvl, .mpc] s t ∧
      (fallingEdge s t = true ↔ strobe s = .one) ∧ (strobe s = .zero → t.lvl = s.lvl)) ∧
  ∀ (s : State) (c : Cfg), s.cfg? = some c → s.pdec = some false →
    ∃ t, exec .polla s = .next t ∧ t.mpc = s.mpc + 1 ∧ OnlyChanges [.mpc] s t

/-- 41_engine.md R129: after k IRQ steps since a Boundary or INIT, k below N, in any schedule, the elapsed count is k, and an atomic
POLLS decides PDEC = true exactly when D periods have elapsed. -/
def Obligations.DutyDecisionCountsPeriods : Prop :=
  ∀ (s t : State) (ms : List Move) (c : Cfg), Invariant s → Run s ms t → s.cfg? = some c → s.params.readAtomic = true →
    s.cnt = some (initv s.params.countDir c) → (∀ m ∈ ms, m.restarts = false) →
    (ms.filter Move.isIrq).length < c.N.toNat →
    ∃ u v, t.cnt = some v ∧ elapsed s.params.countDir c v = (ms.filter Move.isIrq).length ∧ exec .polls t = .next u ∧
      u.pdec = some (decide (c.D.toNat ≤ (ms.filter Move.isIrq).length))

/-- 41_engine.md R129 (a) with PR1 and PR2 of 70_reset_and_hazards.md R244, for an atomic counter read: a run from just after a
Boundary with STROBE at 1, with no INIT and no RST, with the discipline of R61 (log entry 27), in which every POLLA comes after a POLLS of the run
(PR2 at that Boundary) and MAIN completes a POLLS and a POLLA between consecutive IRQ steps (PR1): exactly one falling edge occurs
before the next Boundary, at a POLLA after the D-th IRQ step and before the next: no step before it falls, none before it is a
Boundary, and no step after it falls until a Boundary has come. -/
def Obligations.DutyProperty : Prop :=
  ∀ (s t : State) (ms : List Move) (c : Cfg), Invariant s → Run s ms t → s.cfg? = some c → s.params.readAtomic = true →
    Disciplined s → (∀ m ∈ ms, m.restarts = false) → s.cnt = some (initv s.params.countDir c) → strobe s = .one →
    (∀ q < ms.length, moveAt Move.isPolla ms q = true → ∃ p < q, moveAt Move.endsPolls ms p = true) → PR1 ms →
    c.D.toNat + 1 ≤ (ms.filter Move.isIrq).length →
    ∃ x f y, ms = x ++ f :: y ∧ f.isPolla = true ∧ fallingEdge f.before f.after = true ∧
      (x.filter Move.isIrq).length = c.D.toNat ∧ 1 ≤ (y.filter Move.isIrq).length ∧
      (∀ m ∈ x, m.isBoundary = false ∧ fallingEdge m.before m.after = false) ∧
      ∀ z m w, y = z ++ m :: w → (∀ b ∈ z, b.isBoundary = false) → fallingEdge m.before m.after = false

/-- 41_engine.md R130: the map `CNT_up = (N - CNT_down) mod N` commutes with every agent's step and with the machine's step, and
keeps LVL, STROBE and which agents may step: the two conventions give the same run for the same schedule. -/
def Obligations.ConventionsAgree : Prop :=
  ∀ s : State, Invariant s → s.cfg?.isSome = true → s.params.countDir = .down → s.params.readAtomic = true →
    (∀ a, agentStep a (toUp s) = mapNext toUp (agentStep a s) ∧ mayStep (toUp s) a = mayStep s a) ∧
    step (toUp s) = mapNext toUp (step s) ∧ (toUp s).lvl = s.lvl ∧ strobe (toUp s) = strobe s

/-- 70_reset_and_hazards.md R238: an IRQ step between the halves of a non-atomic POLLS. Counting down through a borrow the value
compared is 256 below the one the poll started from; counting up through a carry it is 256 above. -/
def Obligations.TornReadsMissByAPage : Prop :=
  ∀ (s : State) (c : Cfg) (v : Word), s.cfg? = some c → s.cnt = some v → s.params.readAtomic = false → s.msub = false →
    (s.params.countDir = .down → v.extractLsb' 0 8 = 0 → 256 ≤ v.toNat →
      ∃ t, execAll [.polls, .irq, .polls] s = .next t ∧ t.cnt = some (v - 1) ∧
        t.pdec = some (decide (v.toNat - 256 ≤ (c.N - c.D).toNat))) ∧
    (s.params.countDir = .up → v.extractLsb' 0 8 = 255 → v + 1 ≠ c.N → v.toNat < 65280 →
      ∃ t, execAll [.polls, .irq, .polls] s = .next t ∧ t.cnt = some (v + 1) ∧
        t.pdec = some (decide (c.D.toNat ≤ v.toNat + 256)))

/-- 70_reset_and_hazards.md R236: a POLLS just before a Boundary and its POLLA just after it clip the pulse: the rising edge is made
and lowered with no IRQ step between. -/
def Obligations.ClippedPulse : Prop :=
  ∀ (s : State) (c : Cfg), Invariant s → s.cfg? = some c → s.cnt = some 1 → s.params.countDir = .down → s.params.readAtomic = true →
    strobe s = .zero →
    ∃ t u v, execAll [.polls] s = .next t ∧ execAll [.irq] t = .next u ∧ execAll [.polla] u = .next v ∧
      t.pdec = some true ∧ risingEdge t u = true ∧ fallingEdge u v = true ∧ v.cnt = some c.N

/-! ### Agents, faults and the whole machine -/

/-- 60_exceptions.md R206, R210: when each agent may step; every step of the machine is one of an agent that may step; and any agent
that may step can be the next (the choice stands in the model's own field `sched`, log entry 5). -/
def Obligations.AgentsStepWhenTheyMay : Prop :=
  (∀ s : State,
    (mayStep s .main = true ↔
      (∀ e ∈ s.fault, e.isStop = false) ∧ ¬(s.gie = true ∧ s.tie = true ∧ s.pend = true)) ∧
    (mayStep s .irq = true ↔
      (∀ e ∈ s.fault, e.isStop = false) ∧ s.gie = true ∧ s.tie = true ∧ s.pend = true) ∧
    (mayStep s .clock = true ↔ (∀ e ∈ s.fault, e.isStop = false) ∧ s.tsel ≠ 0)) ∧
  (∀ s t : State, s.cfg?.isSome = true → step s = .next t →
    ∃ a l n, mayStep s a = true ∧ agentStep a { s with sched := l, choices := n } = .next t) ∧
  ∀ (s : State) (a : Agent) (l : List Agent), s.cfg?.isSome = true → mayStep s a = true →
    step { s with sched := a :: l } = agentStep a { s with sched := l }

/-- 60_exceptions.md R207, R211: while the interrupt is deliverable the step is the handler's or a tick's, never MAIN's, and MAIN's
place in its program is kept; after the handler, with no tick between, it is not deliverable. -/
def Obligations.InterruptPreemptsMain : Prop :=
  (∀ s t : State, s.cfg?.isSome = true → s.deliverable = true → step s = .next t →
    (∃ l n, exec .irq { s with sched := l, choices := n } = .next t ∨ exec .tick { s with sched := l, choices := n } = .next t) ∧
    t.mpc = s.mpc ∧ t.msub = s.msub ∧ t.pdec = s.pdec ∧ t.latlo = s.latlo) ∧
  ∀ (s t : State) (v : Word), s.cnt = some v → exec .irq s = .next t → t.deliverable = false

/-- 60_exceptions.md R200, R201: a step that raises a stop fault changes nothing but FAULT, the state after it is quiescent for every
agent, and the machine is stuck exactly there (the fault `quiescent` is the model's, log entry 7); F_OVERRUN alone is a record
fault, and the tick that records it completes. -/
def Obligations.StopFaultsStopTheMachine : Prop :=
  (∀ e : FaultEntry, e.isStop = false ↔ e = .overrun) ∧
  (∀ (a : Agent) (s t : State), agentStep a s = .next t → s.stopped = false → t.stopped = true →
    OnlyChanges [.fault] s t ∧ ∃ e, e.isStop = true ∧ AddsFault e s t) ∧
  (∀ (s : State) (a : Agent), s.stopped = true → mayStep s a = false) ∧
  (∀ s : State, s.cfg?.isSome = true → (step s = .fault .quiescent ↔ s.stopped = true)) ∧
  ∀ (a : Agent) (s t : State), agentStep a s = .next t → .overrun ∈ t.fault → .overrun ∉ s.fault →
    a = .clock ∧ t.stopped = s.stopped ∧ t.tcnt = 0 ∧ t.pend = true

/-- R35: a fault adds its pair to FAULT, no step of the machine removes one, and a new launch clears the record. -/
def Obligations.FaultRecordIsSticky : Prop :=
  (∀ (s : State) (e : FaultEntry), AddsFault e s (s.recordFault e)) ∧
  (∀ (s t : State) (e : FaultEntry), step s = .next t → e ∈ s.fault → e ∈ t.fault) ∧ ∀ s : State, s.relaunch.fault = []

/-- 10_state.md R40, the access table (R21, R23 to R34): each register is written by the steps listed for it and by no others. -/
def Obligations.OnlyTheListedStepsWrite : Prop :=
  ∀ (i : Instr) (s t : State), exec i s = .next t →
    (t.cnt ≠ s.cnt → i = .irq ∨ ∃ x, i = .init x) ∧
    (t.pdec ≠ s.pdec → i = .polls) ∧
    (t.latlo ≠ s.latlo → i = .polls ∧ s.params.readAtomic = false) ∧
    (t.msub ≠ s.msub → i = .polls ∧ s.params.readAtomic = false) ∧
    (t.mpc ≠ s.mpc → i.isCommand = true) ∧
    (t.gie ≠ s.gie → i = .enable ∨ i = .rst ∨ ∃ x, i = .init x) ∧
    (t.tie ≠ s.tie → i = .tinst ∨ i = .rst ∨ ∃ x, i = .init x) ∧
    (t.pend ≠ s.pend → i = .tick ∨ i = .irq ∨ i = .rst ∨ ∃ x, i = .init x) ∧
    (t.tsel ≠ s.tsel → i = .rst ∨ ∃ x, i = .init x ∨ i = .tconf x) ∧
    (t.trld ≠ s.trld → i = .rst ∨ (∃ x, i = .init x) ∨ ∃ v, i = .treload v) ∧
    (t.tcnt ≠ s.tcnt → i = .tick ∨ i = .rst ∨ (∃ x, i = .init x ∨ i = .tconf x) ∨ ∃ v, i = .treload v) ∧
    (t.dir ≠ s.dir → i = .rst ∨ (∃ x, i = .init x) ∨ ∃ m, i = .pdir m) ∧
    (t.lvl ≠ s.lvl → i = .irq ∨ i = .polla ∨ i = .rst ∨ (∃ x, i = .init x) ∨ ∃ m, i = .phigh m ∨ i = .plow m)

/-- 60_exceptions.md R205, R211: only a tick makes an event pending, and a pending event waits until the handler is entered or MAIN's
INIT or RST discards it. -/
def Obligations.PendingEventsWait : Prop :=
  ∀ (a : Agent) (s t : State), agentStep a s = .next t →
    (s.pend = false → t.pend = true → a = .clock) ∧
    (s.pend = true → t.pend = false →
      a = .irq ∨ (a = .main ∧ (nextCommand s = some .rst ∨ ∃ x, nextCommand s = some (.init x))))

/-- The invariant is kept by every step, from every state that meets it: CNT's range (R22), TCNT below TRLD (R32), selectors 6 and 7
never written (R30), MPC at most 256 (R26), the split read's registers (R24, R25, R126, R140), FAULT's canonical form. -/
def Obligations.StepKeepsTheInvariant : Prop :=
  ∀ s t : State, Invariant s → step s = .next t → Invariant t

/-- Every state a run reaches from a launch, under every choice of agents, meets the invariant. -/
def Obligations.ReachableStatesMeetTheInvariant : Prop :=
  ∀ s : State, Reachable s → Invariant s

/-- The reset state meets the invariant, and its registers have their launch values. It rests on the configuration and the empty
store, no program loaded, that the model chose for reset (log entries 3 and 4). -/
def Obligations.ResetMeetsTheInvariant : Prop := Invariant State.reset ∧ State.reset = State.reset.relaunch

/-- R230: the launch values of every register, the program and the configuration as they are for the launch; only MAIN may step,
and STROBE is OFF. -/
def Obligations.LaunchState : Prop :=
  ∀ s : State,
    s.relaunch.cnt = none ∧ s.relaunch.pdec = none ∧ s.relaunch.latlo = none ∧ s.relaunch.msub = false ∧
    s.relaunch.mpc = 0 ∧ s.relaunch.gie = false ∧ s.relaunch.tie = false ∧ s.relaunch.pend = false ∧
    s.relaunch.tsel = 0 ∧ s.relaunch.trld = 0 ∧ s.relaunch.tcnt = 0 ∧ s.relaunch.dir = 0x00 ∧ s.relaunch.lvl = 0x00 ∧
    s.relaunch.fault = [] ∧ SameLaunch s s.relaunch ∧
    mayStep s.relaunch .main = true ∧ mayStep s.relaunch .irq = false ∧ mayStep s.relaunch .clock = false ∧
    strobe s.relaunch = .off

/-- R51: no step writes the program store, and the configuration of a machine that exists never changes; nor do the parameters. -/
def Obligations.LaunchParametersAreFixed : Prop :=
  ∀ s t : State, step s = .next t →
    t.prog = s.prog ∧ t.params = s.params ∧ t.consts = s.consts ∧ (s.cfg?.isSome = true → t.cfg? = s.cfg?)

/-- 70_reset_and_hazards.md R240: INIT and ENABLE from any two states of runs of one launch lead to states that differ at most in MPC,
PDEC, FAULT and the DIR and LVL bits outside the mask, with STROBE low; with a non-atomic counter read, INIT being reached as it is in
a run between two POLLS (MSUB 0), in LATLO too, which INIT keeps (a fifth place R240 does not list, read from R142, log entry 29). -/
def Obligations.RestartReproducesTheStart : Prop :=
  ∀ (s s' : State) (c : Cfg), Invariant s → Invariant s' → SameLaunch s s' → s.cfg? = some c →
    ∃ t t', execAll [.init c.sel, .enable] s = .next t ∧ execAll [.init c.sel, .enable] s' = .next t' ∧
      (∀ r : Reg, r ∉ [Reg.mpc, .pdec, .fault, .dir, .lvl, .latlo, .msub] → r.same t t') ∧
      (s.params.readAtomic = true → t.latlo = t'.latlo ∧ t.msub = t'.msub) ∧
      (s.msub = false → s'.msub = false → t.msub = t'.msub) ∧ t.latlo = s.latlo ∧ t'.latlo = s'.latlo ∧
      t.dir &&& c.mask = t'.dir &&& c.mask ∧ t.lvl &&& c.mask = t'.lvl &&& c.mask ∧
      (c.mask ≠ 0 → strobe t = .zero ∧ strobe t' = .zero)

/-- 42_lifecycle.md R140, 60_exceptions.md R210: a step of the machine is exec of the instruction: MAIN's of the decoded word at MPC,
IRQ's and CLOCK's of their event; what the step adds is the choice of the agent, in the model's scheduling fields alone (log entry
5). That the step of a state before the build is exec of VALIDATE is the model's choice (log entry 12): R10 has VALIDATE run before
the machine exists. -/
def Obligations.StepRunsTheDecodedInstruction : Prop :=
  (∀ (s u : State) (w : Word) (i : Instr), s.cfg?.isSome = true → pick s = some (.main, u) →
    progFetch s s.mpc = some w → decode w = .ok i → step s = exec i u) ∧
  (∀ s u : State, s.cfg?.isSome = true → pick s = some (.irq, u) → step s = exec .irq u) ∧
  (∀ s u : State, s.cfg?.isSome = true → pick s = some (.clock, u) → step s = exec .tick u) ∧
  (∀ s : State, s.verdict = none → step s = exec .validate s) ∧
  ∀ (s u : State) (a : Agent), pick s = some (a, u) → (∀ r : Reg, r.same s u) ∧ SameLaunch s u
end

