-- ==== Sys2Proof/Laws/Counter.lean ====
section
/-! SUPPORT. The counter's arithmetic: what the boundary test, the successor and the elapsed count are in each convention
(41_engine.md R121, R122), and how one handler step moves the elapsed count within the reachable range (R22). -/

namespace Sys2Proof

theorem atBoundary_down (c : Cfg) (v : Word) : atBoundary .down c v = true ↔ v.toNat = 1 := by
  have hv := v.isLt
  show decide (v - 1 = 0) = true ↔ _
  rw [decide_eq_true_iff]
  constructor <;> intro h <;> bv_omega

theorem atBoundary_up (c : Cfg) (v : Word) : atBoundary .up c v = true ↔ (v.toNat + 1) % 65536 = c.N.toNat := by
  show decide (v + 1 = c.N) = true ↔ _
  rw [decide_eq_true_iff, ← BitVec.toNat_inj, BitVec.toNat_add]
  rfl

theorem countNext_down_toNat {v : Word} (h : v.toNat ≠ 0) : (countNext .down v).toNat = v.toNat - 1 := by
  show (v - 1).toNat = _
  bv_omega

theorem countNext_up_toNat {v : Word} (h : v.toNat < 65535) : (countNext .up v).toNat = v.toNat + 1 := by
  show (v + 1).toNat = _
  bv_omega

theorem cntInRange_down (c : Cfg) (v : Word) : cntInRange .down c v = true ↔ 1 ≤ v.toNat ∧ v.toNat ≤ c.N.toNat := by
  simp [cntInRange]

theorem cntInRange_up (c : Cfg) (v : Word) : cntInRange .up c v = true ↔ v.toNat < c.N.toNat := by
  simp [cntInRange]

theorem dutyReached_iff (d : CountDir) (c : Cfg) (v : Word) :
    dutyReached d c v = true ↔
      (match d with
       | .down => v.toNat ≤ (thr .down c).toNat
       | .up => (thr .up c).toNat ≤ v.toNat) := by
  cases d <;> simp [dutyReached]

/-- Within the reachable range the elapsed count stays below N. -/
theorem elapsed_lt {d : CountDir} {c : Cfg} {v : Word} (h : cntInRange d c v = true) : elapsed d c v < c.N.toNat := by
  cases d
  · rw [cntInRange_down] at h
    show c.N.toNat - v.toNat < _
    omega
  · exact (cntInRange_up c v).mp h

/-- Within the reachable range the elapsed count determines the counter. -/
theorem elapsed_inj {d : CountDir} {c : Cfg} {v w : Word} (hv : cntInRange d c v = true) (hw : cntInRange d c w = true)
    (h : elapsed d c v = elapsed d c w) : v = w := by
  apply BitVec.eq_of_toNat_eq
  cases d
  · rw [cntInRange_down] at hv hw
    have h : c.N.toNat - v.toNat = c.N.toNat - w.toNat := h
    omega
  · exact h

/-- A step is a Boundary exactly when it completes the N-th period. -/
theorem atBoundary_iff_elapsed {d : CountDir} {c : Cfg} {v : Word} (h : cntInRange d c v = true) :
    atBoundary d c v = true ↔ elapsed d c v + 1 = c.N.toNat := by
  have hN := c.N.isLt
  cases d
  · rw [cntInRange_down] at h
    rw [atBoundary_down]
    show _ ↔ c.N.toNat - v.toNat + 1 = c.N.toNat
    omega
  · rw [cntInRange_up] at h
    rw [atBoundary_up]
    show _ ↔ v.toNat + 1 = c.N.toNat
    omega

/-- The counter a Boundary leaves has the elapsed count 0. -/
theorem elapsed_initv (d : CountDir) (c : Cfg) : elapsed d c (initv d c) = 0 := by
  cases d <;> simp [elapsed, initv]

theorem cntInRange_initv {d : CountDir} {c : Cfg} (h : c.N ≠ 0) : cntInRange d c (initv d c) = true := by
  have : 0 < c.N.toNat := Nat.pos_of_ne_zero fun e => h (BitVec.eq_of_toNat_eq e)
  cases d
  · exact (cntInRange_down c c.N).mpr ⟨this, Nat.le_refl _⟩
  · exact (cntInRange_up c 0).mpr this

/-- A step that is no Boundary counts one period more. -/
theorem elapsed_countNext {d : CountDir} {c : Cfg} {v : Word} (h : cntInRange d c v = true) (hb : atBoundary d c v = false) :
    cntInRange d c (countNext d v) = true ∧ elapsed d c (countNext d v) = elapsed d c v + 1 := by
  have hN := c.N.isLt
  have hb' : ¬ elapsed d c v + 1 = c.N.toNat := by rw [← atBoundary_iff_elapsed h, hb]; simp
  cases d
  · rw [cntInRange_down] at h ⊢
    have hb' : ¬ c.N.toNat - v.toNat + 1 = c.N.toNat := hb'
    show _ ∧ c.N.toNat - (countNext .down v).toNat = c.N.toNat - v.toNat + 1
    rw [countNext_down_toNat (by omega)]
    omega
  · rw [cntInRange_up] at h ⊢
    have hb' : ¬ v.toNat + 1 = c.N.toNat := hb'
    show _ ∧ (countNext .up v).toNat = v.toNat + 1
    rw [countNext_up_toNat (by omega)]
    omega

end Sys2Proof
end

