-- ==== Sys2Proof/Laws/State.lean ====
section
/-! SUPPORT. One lemma per field per named update of the state, true by rfl, so that no later proof unfolds a record update. -/

namespace Sys2Proof.Machine

/-! ### State.advance -/

@[simp] theorem State.advance_params (s : State) : s.advance.params = s.params := rfl
@[simp] theorem State.advance_consts (s : State) : s.advance.consts = s.consts := rfl
@[simp] theorem State.advance_verdict (s : State) : s.advance.verdict = s.verdict := rfl
@[simp] theorem State.advance_prog (s : State) : s.advance.prog = s.prog := rfl
@[simp] theorem State.advance_cnt (s : State) : s.advance.cnt = s.cnt := rfl
@[simp] theorem State.advance_pdec (s : State) : s.advance.pdec = s.pdec := rfl
@[simp] theorem State.advance_latlo (s : State) : s.advance.latlo = s.latlo := rfl
@[simp] theorem State.advance_msub (s : State) : s.advance.msub = s.msub := rfl
@[simp] theorem State.advance_mpc (s : State) : s.advance.mpc = s.mpc + 1 := rfl
@[simp] theorem State.advance_gie (s : State) : s.advance.gie = s.gie := rfl
@[simp] theorem State.advance_tie (s : State) : s.advance.tie = s.tie := rfl
@[simp] theorem State.advance_pend (s : State) : s.advance.pend = s.pend := rfl
@[simp] theorem State.advance_tsel (s : State) : s.advance.tsel = s.tsel := rfl
@[simp] theorem State.advance_trld (s : State) : s.advance.trld = s.trld := rfl
@[simp] theorem State.advance_tcnt (s : State) : s.advance.tcnt = s.tcnt := rfl
@[simp] theorem State.advance_dir (s : State) : s.advance.dir = s.dir := rfl
@[simp] theorem State.advance_lvl (s : State) : s.advance.lvl = s.lvl := rfl
@[simp] theorem State.advance_fault (s : State) : s.advance.fault = s.fault := rfl
@[simp] theorem State.advance_sched (s : State) : s.advance.sched = s.sched := rfl
@[simp] theorem State.advance_choices (s : State) : s.advance.choices = s.choices := rfl

/-! ### State.recordFault -/

@[simp] theorem State.recordFault_params (s : State) (e : FaultEntry) : (s.recordFault e).params = s.params := rfl
@[simp] theorem State.recordFault_consts (s : State) (e : FaultEntry) : (s.recordFault e).consts = s.consts := rfl
@[simp] theorem State.recordFault_verdict (s : State) (e : FaultEntry) : (s.recordFault e).verdict = s.verdict := rfl
@[simp] theorem State.recordFault_prog (s : State) (e : FaultEntry) : (s.recordFault e).prog = s.prog := rfl
@[simp] theorem State.recordFault_cnt (s : State) (e : FaultEntry) : (s.recordFault e).cnt = s.cnt := rfl
@[simp] theorem State.recordFault_pdec (s : State) (e : FaultEntry) : (s.recordFault e).pdec = s.pdec := rfl
@[simp] theorem State.recordFault_latlo (s : State) (e : FaultEntry) : (s.recordFault e).latlo = s.latlo := rfl
@[simp] theorem State.recordFault_msub (s : State) (e : FaultEntry) : (s.recordFault e).msub = s.msub := rfl
@[simp] theorem State.recordFault_mpc (s : State) (e : FaultEntry) : (s.recordFault e).mpc = s.mpc := rfl
@[simp] theorem State.recordFault_gie (s : State) (e : FaultEntry) : (s.recordFault e).gie = s.gie := rfl
@[simp] theorem State.recordFault_tie (s : State) (e : FaultEntry) : (s.recordFault e).tie = s.tie := rfl
@[simp] theorem State.recordFault_pend (s : State) (e : FaultEntry) : (s.recordFault e).pend = s.pend := rfl
@[simp] theorem State.recordFault_tsel (s : State) (e : FaultEntry) : (s.recordFault e).tsel = s.tsel := rfl
@[simp] theorem State.recordFault_trld (s : State) (e : FaultEntry) : (s.recordFault e).trld = s.trld := rfl
@[simp] theorem State.recordFault_tcnt (s : State) (e : FaultEntry) : (s.recordFault e).tcnt = s.tcnt := rfl
@[simp] theorem State.recordFault_dir (s : State) (e : FaultEntry) : (s.recordFault e).dir = s.dir := rfl
@[simp] theorem State.recordFault_lvl (s : State) (e : FaultEntry) : (s.recordFault e).lvl = s.lvl := rfl
@[simp] theorem State.recordFault_fault (s : State) (e : FaultEntry) : (s.recordFault e).fault = FaultSet.insert e s.fault := rfl
@[simp] theorem State.recordFault_sched (s : State) (e : FaultEntry) : (s.recordFault e).sched = s.sched := rfl
@[simp] theorem State.recordFault_choices (s : State) (e : FaultEntry) : (s.recordFault e).choices = s.choices := rfl

/-! ### State.enterHandler -/

@[simp] theorem State.enterHandler_params (s : State) : s.enterHandler.params = s.params := rfl
@[simp] theorem State.enterHandler_consts (s : State) : s.enterHandler.consts = s.consts := rfl
@[simp] theorem State.enterHandler_verdict (s : State) : s.enterHandler.verdict = s.verdict := rfl
@[simp] theorem State.enterHandler_prog (s : State) : s.enterHandler.prog = s.prog := rfl
@[simp] theorem State.enterHandler_cnt (s : State) : s.enterHandler.cnt = s.cnt := rfl
@[simp] theorem State.enterHandler_pdec (s : State) : s.enterHandler.pdec = s.pdec := rfl
@[simp] theorem State.enterHandler_latlo (s : State) : s.enterHandler.latlo = s.latlo := rfl
@[simp] theorem State.enterHandler_msub (s : State) : s.enterHandler.msub = s.msub := rfl
@[simp] theorem State.enterHandler_mpc (s : State) : s.enterHandler.mpc = s.mpc := rfl
@[simp] theorem State.enterHandler_gie (s : State) : s.enterHandler.gie = s.gie := rfl
@[simp] theorem State.enterHandler_tie (s : State) : s.enterHandler.tie = s.tie := rfl
@[simp] theorem State.enterHandler_pend (s : State) : s.enterHandler.pend = false := rfl
@[simp] theorem State.enterHandler_tsel (s : State) : s.enterHandler.tsel = s.tsel := rfl
@[simp] theorem State.enterHandler_trld (s : State) : s.enterHandler.trld = s.trld := rfl
@[simp] theorem State.enterHandler_tcnt (s : State) : s.enterHandler.tcnt = s.tcnt := rfl
@[simp] theorem State.enterHandler_dir (s : State) : s.enterHandler.dir = s.dir := rfl
@[simp] theorem State.enterHandler_lvl (s : State) : s.enterHandler.lvl = s.lvl := rfl
@[simp] theorem State.enterHandler_fault (s : State) : s.enterHandler.fault = s.fault := rfl
@[simp] theorem State.enterHandler_sched (s : State) : s.enterHandler.sched = s.sched := rfl
@[simp] theorem State.enterHandler_choices (s : State) : s.enterHandler.choices = s.choices := rfl

/-! ### State.leaveHandler -/

@[simp] theorem State.leaveHandler_params (s : State) : s.leaveHandler.params = s.params := rfl
@[simp] theorem State.leaveHandler_consts (s : State) : s.leaveHandler.consts = s.consts := rfl
@[simp] theorem State.leaveHandler_verdict (s : State) : s.leaveHandler.verdict = s.verdict := rfl
@[simp] theorem State.leaveHandler_prog (s : State) : s.leaveHandler.prog = s.prog := rfl
@[simp] theorem State.leaveHandler_cnt (s : State) : s.leaveHandler.cnt = s.cnt := rfl
@[simp] theorem State.leaveHandler_pdec (s : State) : s.leaveHandler.pdec = s.pdec := rfl
@[simp] theorem State.leaveHandler_latlo (s : State) : s.leaveHandler.latlo = s.latlo := rfl
@[simp] theorem State.leaveHandler_msub (s : State) : s.leaveHandler.msub = s.msub := rfl
@[simp] theorem State.leaveHandler_mpc (s : State) : s.leaveHandler.mpc = s.mpc := rfl
@[simp] theorem State.leaveHandler_gie (s : State) : s.leaveHandler.gie = s.gie := rfl
@[simp] theorem State.leaveHandler_tie (s : State) : s.leaveHandler.tie = s.tie := rfl
@[simp] theorem State.leaveHandler_pend (s : State) : s.leaveHandler.pend = s.pend := rfl
@[simp] theorem State.leaveHandler_tsel (s : State) : s.leaveHandler.tsel = s.tsel := rfl
@[simp] theorem State.leaveHandler_trld (s : State) : s.leaveHandler.trld = s.trld := rfl
@[simp] theorem State.leaveHandler_tcnt (s : State) : s.leaveHandler.tcnt = s.tcnt := rfl
@[simp] theorem State.leaveHandler_dir (s : State) : s.leaveHandler.dir = s.dir := rfl
@[simp] theorem State.leaveHandler_lvl (s : State) : s.leaveHandler.lvl = s.lvl := rfl
@[simp] theorem State.leaveHandler_fault (s : State) : s.leaveHandler.fault = s.fault := rfl
@[simp] theorem State.leaveHandler_sched (s : State) : s.leaveHandler.sched = s.sched := rfl
@[simp] theorem State.leaveHandler_choices (s : State) : s.leaveHandler.choices = s.choices := rfl

/-! ### State.makeOutput -/

@[simp] theorem State.makeOutput_params (s : State) (m : Byte) : (s.makeOutput m).params = s.params := rfl
@[simp] theorem State.makeOutput_consts (s : State) (m : Byte) : (s.makeOutput m).consts = s.consts := rfl
@[simp] theorem State.makeOutput_verdict (s : State) (m : Byte) : (s.makeOutput m).verdict = s.verdict := rfl
@[simp] theorem State.makeOutput_prog (s : State) (m : Byte) : (s.makeOutput m).prog = s.prog := rfl
@[simp] theorem State.makeOutput_cnt (s : State) (m : Byte) : (s.makeOutput m).cnt = s.cnt := rfl
@[simp] theorem State.makeOutput_pdec (s : State) (m : Byte) : (s.makeOutput m).pdec = s.pdec := rfl
@[simp] theorem State.makeOutput_latlo (s : State) (m : Byte) : (s.makeOutput m).latlo = s.latlo := rfl
@[simp] theorem State.makeOutput_msub (s : State) (m : Byte) : (s.makeOutput m).msub = s.msub := rfl
@[simp] theorem State.makeOutput_mpc (s : State) (m : Byte) : (s.makeOutput m).mpc = s.mpc := rfl
@[simp] theorem State.makeOutput_gie (s : State) (m : Byte) : (s.makeOutput m).gie = s.gie := rfl
@[simp] theorem State.makeOutput_tie (s : State) (m : Byte) : (s.makeOutput m).tie = s.tie := rfl
@[simp] theorem State.makeOutput_pend (s : State) (m : Byte) : (s.makeOutput m).pend = s.pend := rfl
@[simp] theorem State.makeOutput_tsel (s : State) (m : Byte) : (s.makeOutput m).tsel = s.tsel := rfl
@[simp] theorem State.makeOutput_trld (s : State) (m : Byte) : (s.makeOutput m).trld = s.trld := rfl
@[simp] theorem State.makeOutput_tcnt (s : State) (m : Byte) : (s.makeOutput m).tcnt = s.tcnt := rfl
@[simp] theorem State.makeOutput_dir (s : State) (m : Byte) : (s.makeOutput m).dir = s.dir ||| m := rfl
@[simp] theorem State.makeOutput_lvl (s : State) (m : Byte) : (s.makeOutput m).lvl = s.lvl := rfl
@[simp] theorem State.makeOutput_fault (s : State) (m : Byte) : (s.makeOutput m).fault = s.fault := rfl
@[simp] theorem State.makeOutput_sched (s : State) (m : Byte) : (s.makeOutput m).sched = s.sched := rfl
@[simp] theorem State.makeOutput_choices (s : State) (m : Byte) : (s.makeOutput m).choices = s.choices := rfl

/-! ### State.driveHigh -/

@[simp] theorem State.driveHigh_params (s : State) (m : Byte) : (s.driveHigh m).params = s.params := rfl
@[simp] theorem State.driveHigh_consts (s : State) (m : Byte) : (s.driveHigh m).consts = s.consts := rfl
@[simp] theorem State.driveHigh_verdict (s : State) (m : Byte) : (s.driveHigh m).verdict = s.verdict := rfl
@[simp] theorem State.driveHigh_prog (s : State) (m : Byte) : (s.driveHigh m).prog = s.prog := rfl
@[simp] theorem State.driveHigh_cnt (s : State) (m : Byte) : (s.driveHigh m).cnt = s.cnt := rfl
@[simp] theorem State.driveHigh_pdec (s : State) (m : Byte) : (s.driveHigh m).pdec = s.pdec := rfl
@[simp] theorem State.driveHigh_latlo (s : State) (m : Byte) : (s.driveHigh m).latlo = s.latlo := rfl
@[simp] theorem State.driveHigh_msub (s : State) (m : Byte) : (s.driveHigh m).msub = s.msub := rfl
@[simp] theorem State.driveHigh_mpc (s : State) (m : Byte) : (s.driveHigh m).mpc = s.mpc := rfl
@[simp] theorem State.driveHigh_gie (s : State) (m : Byte) : (s.driveHigh m).gie = s.gie := rfl
@[simp] theorem State.driveHigh_tie (s : State) (m : Byte) : (s.driveHigh m).tie = s.tie := rfl
@[simp] theorem State.driveHigh_pend (s : State) (m : Byte) : (s.driveHigh m).pend = s.pend := rfl
@[simp] theorem State.driveHigh_tsel (s : State) (m : Byte) : (s.driveHigh m).tsel = s.tsel := rfl
@[simp] theorem State.driveHigh_trld (s : State) (m : Byte) : (s.driveHigh m).trld = s.trld := rfl
@[simp] theorem State.driveHigh_tcnt (s : State) (m : Byte) : (s.driveHigh m).tcnt = s.tcnt := rfl
@[simp] theorem State.driveHigh_dir (s : State) (m : Byte) : (s.driveHigh m).dir = s.dir := rfl
@[simp] theorem State.driveHigh_lvl (s : State) (m : Byte) : (s.driveHigh m).lvl = s.lvl ||| m := rfl
@[simp] theorem State.driveHigh_fault (s : State) (m : Byte) : (s.driveHigh m).fault = s.fault := rfl
@[simp] theorem State.driveHigh_sched (s : State) (m : Byte) : (s.driveHigh m).sched = s.sched := rfl
@[simp] theorem State.driveHigh_choices (s : State) (m : Byte) : (s.driveHigh m).choices = s.choices := rfl

/-! ### State.driveLow -/

@[simp] theorem State.driveLow_params (s : State) (m : Byte) : (s.driveLow m).params = s.params := rfl
@[simp] theorem State.driveLow_consts (s : State) (m : Byte) : (s.driveLow m).consts = s.consts := rfl
@[simp] theorem State.driveLow_verdict (s : State) (m : Byte) : (s.driveLow m).verdict = s.verdict := rfl
@[simp] theorem State.driveLow_prog (s : State) (m : Byte) : (s.driveLow m).prog = s.prog := rfl
@[simp] theorem State.driveLow_cnt (s : State) (m : Byte) : (s.driveLow m).cnt = s.cnt := rfl
@[simp] theorem State.driveLow_pdec (s : State) (m : Byte) : (s.driveLow m).pdec = s.pdec := rfl
@[simp] theorem State.driveLow_latlo (s : State) (m : Byte) : (s.driveLow m).latlo = s.latlo := rfl
@[simp] theorem State.driveLow_msub (s : State) (m : Byte) : (s.driveLow m).msub = s.msub := rfl
@[simp] theorem State.driveLow_mpc (s : State) (m : Byte) : (s.driveLow m).mpc = s.mpc := rfl
@[simp] theorem State.driveLow_gie (s : State) (m : Byte) : (s.driveLow m).gie = s.gie := rfl
@[simp] theorem State.driveLow_tie (s : State) (m : Byte) : (s.driveLow m).tie = s.tie := rfl
@[simp] theorem State.driveLow_pend (s : State) (m : Byte) : (s.driveLow m).pend = s.pend := rfl
@[simp] theorem State.driveLow_tsel (s : State) (m : Byte) : (s.driveLow m).tsel = s.tsel := rfl
@[simp] theorem State.driveLow_trld (s : State) (m : Byte) : (s.driveLow m).trld = s.trld := rfl
@[simp] theorem State.driveLow_tcnt (s : State) (m : Byte) : (s.driveLow m).tcnt = s.tcnt := rfl
@[simp] theorem State.driveLow_dir (s : State) (m : Byte) : (s.driveLow m).dir = s.dir := rfl
@[simp] theorem State.driveLow_lvl (s : State) (m : Byte) : (s.driveLow m).lvl = s.lvl &&& ~~~m := rfl
@[simp] theorem State.driveLow_fault (s : State) (m : Byte) : (s.driveLow m).fault = s.fault := rfl
@[simp] theorem State.driveLow_sched (s : State) (m : Byte) : (s.driveLow m).sched = s.sched := rfl
@[simp] theorem State.driveLow_choices (s : State) (m : Byte) : (s.driveLow m).choices = s.choices := rfl

/-! ### State.relaunch -/

@[simp] theorem State.relaunch_params (s : State) : s.relaunch.params = s.params := rfl
@[simp] theorem State.relaunch_consts (s : State) : s.relaunch.consts = s.consts := rfl
@[simp] theorem State.relaunch_verdict (s : State) : s.relaunch.verdict = s.verdict := rfl
@[simp] theorem State.relaunch_prog (s : State) : s.relaunch.prog = s.prog := rfl
@[simp] theorem State.relaunch_cnt (s : State) : s.relaunch.cnt = none := rfl
@[simp] theorem State.relaunch_pdec (s : State) : s.relaunch.pdec = none := rfl
@[simp] theorem State.relaunch_latlo (s : State) : s.relaunch.latlo = none := rfl
@[simp] theorem State.relaunch_msub (s : State) : s.relaunch.msub = false := rfl
@[simp] theorem State.relaunch_mpc (s : State) : s.relaunch.mpc = 0 := rfl
@[simp] theorem State.relaunch_gie (s : State) : s.relaunch.gie = false := rfl
@[simp] theorem State.relaunch_tie (s : State) : s.relaunch.tie = false := rfl
@[simp] theorem State.relaunch_pend (s : State) : s.relaunch.pend = false := rfl
@[simp] theorem State.relaunch_tsel (s : State) : s.relaunch.tsel = 0 := rfl
@[simp] theorem State.relaunch_trld (s : State) : s.relaunch.trld = 0 := rfl
@[simp] theorem State.relaunch_tcnt (s : State) : s.relaunch.tcnt = 0 := rfl
@[simp] theorem State.relaunch_dir (s : State) : s.relaunch.dir = 0 := rfl
@[simp] theorem State.relaunch_lvl (s : State) : s.relaunch.lvl = 0 := rfl
@[simp] theorem State.relaunch_fault (s : State) : s.relaunch.fault = [] := rfl
@[simp] theorem State.relaunch_sched (s : State) : s.relaunch.sched = [] := rfl
@[simp] theorem State.relaunch_choices (s : State) : s.relaunch.choices = 0 := rfl

end Sys2Proof.Machine
end

