-- ==== Sys2Proof/Laws/Ops.lean ====
section
/-! SUPPORT. What the shared operations can do, once each: the fault record as a set in its canonical form, the configuration,
the fetch, the interrupt's delivery. -/

namespace Sys2Proof.Machine

/-! ### The fault record -/

/-- Distinct pairs have distinct places, so the canonical form is a set. -/
theorem FaultEntry.key_injective {a b : FaultEntry} (h : a.key = b.key) : a = b := by
  cases a <;> cases b <;> simp only [FaultEntry.key, reduceCtorEq] at h ⊢ <;>
    (try (rename_i m w m' w'
          have := m.isLt; have := w.isLt; have := m'.isLt; have := w'.isLt)) <;>
    (try (rename_i m m'; have := m.isLt; have := m'.isLt)) <;>
    first
      | omega
      | (simp only [FaultEntry.illegal.injEq, FaultEntry.cfgMismatch.injEq, FaultEntry.pcRange.injEq,
          FaultEntry.undefCntPolls.injEq, FaultEntry.undefDec.injEq]
         first
           | exact ⟨BitVec.eq_of_toNat_eq (by omega), BitVec.eq_of_toNat_eq (by omega)⟩
           | exact BitVec.eq_of_toNat_eq (by omega))

/-- Adding a pair adds exactly that pair (R201). -/
@[simp] theorem FaultSet.mem_insert {x e : FaultEntry} {l : List FaultEntry} :
    x ∈ FaultSet.insert e l ↔ x = e ∨ x ∈ l := by
  induction l with
  | nil => simp [FaultSet.insert]
  | cons y ys ih =>
    unfold FaultSet.insert
    split
    · simp
    · split
      next h =>
        have : e = y := FaultEntry.key_injective h
        subst this
        simp
      · simp [ih]
        tauto

/-- Adding a pair keeps the canonical form. -/
theorem FaultSet.wf_insert (e : FaultEntry) {l : List FaultEntry} (h : FaultSet.wf l) : FaultSet.wf (FaultSet.insert e l) := by
  induction l with
  | nil => simp [FaultSet.insert, FaultSet.wf]
  | cons y ys ih =>
    obtain ⟨hy, hys⟩ := List.pairwise_cons.mp h
    unfold FaultSet.insert
    split
    next hlt =>
      refine List.pairwise_cons.mpr ⟨?_, h⟩
      intro a ha
      rcases List.mem_cons.mp ha with rfl | ha
      · exact hlt
      · exact Nat.lt_trans hlt (hy a ha)
    · split
      · exact h
      next hge hne =>
        refine List.pairwise_cons.mpr ⟨?_, ih hys⟩
        intro a ha
        rcases FaultSet.mem_insert.mp ha with rfl | ha
        · omega
        · exact hy a ha

/-- Recording a fault that is there changes nothing. -/
theorem FaultSet.insert_of_mem {e : FaultEntry} {l : List FaultEntry} (hw : FaultSet.wf l) (h : e ∈ l) :
    FaultSet.insert e l = l := by
  induction l with
  | nil => simp at h
  | cons y ys ih =>
    obtain ⟨hy, hys⟩ := List.pairwise_cons.mp hw
    unfold FaultSet.insert
    rcases List.mem_cons.mp h with rfl | h
    · simp
    · have := hy e h
      rw [if_neg (by omega), if_neg (by omega), ih hys h]

/-- Whether a stop fault is recorded, after recording one more. -/
@[simp] theorem stopped_recordFault (s : State) (e : FaultEntry) : (s.recordFault e).stopped = (e.isStop || s.stopped) := by
  have h : ∀ l : List FaultEntry, (FaultSet.insert e l).any FaultEntry.isStop = (e.isStop || l.any FaultEntry.isStop) := by
    intro l
    rw [Bool.eq_iff_iff]
    simp only [List.any_eq_true, FaultSet.mem_insert, Bool.or_eq_true]
    constructor
    · rintro ⟨x, rfl | hx, hs⟩
      · exact .inl hs
      · exact .inr ⟨x, hx, hs⟩
    · rintro (hs | ⟨x, hx, hs⟩)
      · exact ⟨e, .inl rfl, hs⟩
      · exact ⟨x, .inr hx, hs⟩
  exact h s.fault

/-- The quiet update: fields other than FAULT do not matter to whether the machine is stopped. -/
theorem stopped_congr {s t : State} (h : t.fault = s.fault) : t.stopped = s.stopped := by
  simp [State.stopped, h]

/-! ### The verdict -/

/-- Accepted or rejected, a verdict of VALIDATE carries DIAG (R100). -/
@[simp] theorem diag_validate (p : FloorPolicy) (k : Consts) : (validate p k).diag = diagOf p k := by
  unfold validate
  split <;> rfl

/-! ### The parameters of the machine -/

/-- The parameters of the machine are read off four fields that no agent's step writes. -/
theorem cfg?_congr {s t : State} (hv : t.verdict = s.verdict) (hp : t.params.floorPolicy = s.params.floorPolicy)
    (hk : t.consts = s.consts) (hg : t.prog = s.prog) : t.cfg? = s.cfg? := by
  simp [State.cfg?, State.loaded, State.accepted?, hv, hp, hk, hg]

theorem accepted?_eq_some {s : State} {c : Cfg} :
    s.accepted? = some c ↔
      ∃ d, s.verdict = some (.accept c d) ∧ validate s.params.floorPolicy s.consts = .accept c d := by
  unfold State.accepted?
  split
  next c' d hv =>
    rw [hv]
    constructor
    · intro h
      split at h
      next hk => cases h; exact ⟨d, rfl, hk⟩
      · cases h
    · rintro ⟨d', h1, h2⟩
      cases h1
      exact if_pos h2
  all_goals simp_all

theorem loaded_iff {s : State} : s.loaded = true ↔ 1 ≤ s.prog.length ∧ s.prog.length ≤ 256 := by
  simp [State.loaded]

/-- Where the machine exists a program of 1 to 256 words is loaded, and VALIDATE accepted the configuration (R50, R115). -/
theorem cfg?_eq_some {s : State} {c : Cfg} :
    s.cfg? = some c ↔
      (1 ≤ s.prog.length ∧ s.prog.length ≤ 256) ∧
        ∃ d, s.verdict = some (.accept c d) ∧ validate s.params.floorPolicy s.consts = .accept c d := by
  rw [← loaded_iff, ← accepted?_eq_some]
  simp [State.cfg?]

theorem cfg?_isSome_verdict {s : State} (h : s.cfg?.isSome = true) : ∃ c d, s.verdict = some (.accept c d) := by
  obtain ⟨c, hc⟩ := Option.isSome_iff_exists.mp h
  obtain ⟨-, d, hd, -⟩ := cfg?_eq_some.mp hc
  exact ⟨c, d, hd⟩

theorem cfg?_isSome {s : State} {c : Cfg} (h : s.cfg? = some c) : s.cfg?.isSome = true := by
  simp [h]

/-- Without an accepted configuration there is no machine, for that reason. -/
theorem absent_of_accepted? {s : State} (h : s.accepted? = none) : s.cfg? = none ∧ s.absence = .noDeviceImage := by
  simp [State.cfg?, State.absence, h]

/-- Constants VALIDATE rejects have no machine, whatever the verdict (R115). -/
theorem accepted?_reject {s : State} {d : Byte} (h : validate s.params.floorPolicy s.consts = .reject d) : s.accepted? = none := by
  cases ha : s.accepted? with
  | none => rfl
  | some c =>
    obtain ⟨d', -, h'⟩ := accepted?_eq_some.mp ha
    rw [h] at h'
    cases h'

theorem withCfg_some {s : State} {c : Cfg} (h : s.cfg? = some c) (f : Cfg → Host.Outcome State Fault Refusal) :
    withCfg s f = f c := by
  simp [withCfg, h]

theorem withCfg_isSome {s : State} (h : s.cfg?.isSome = true) (o : Host.Outcome State Fault Refusal) :
    withCfg s (fun _ => o) = o := by
  obtain ⟨c, hc⟩ := Option.isSome_iff_exists.mp h
  exact withCfg_some hc _

theorem withCfg_none {s : State} (h : s.cfg? = none) (f : Cfg → Host.Outcome State Fault Refusal) :
    withCfg s f = .refused s.absence := by
  simp [withCfg, h]

/-- A rule of the machine answers a next state only where the machine exists. -/
theorem withCfg_next {s t : State} {f : Cfg → Host.Outcome State Fault Refusal} (h : withCfg s f = .next t) :
    ∃ c, s.cfg? = some c ∧ f c = .next t := by
  unfold withCfg at h
  split at h
  next c hc => exact ⟨c, hc, h⟩
  · cases h

@[simp] theorem cfg?_advance (s : State) : s.advance.cfg? = s.cfg? := rfl
@[simp] theorem cfg?_recordFault (s : State) (e : FaultEntry) : (s.recordFault e).cfg? = s.cfg? := rfl
@[simp] theorem cfg?_enterHandler (s : State) : s.enterHandler.cfg? = s.cfg? := rfl
@[simp] theorem cfg?_leaveHandler (s : State) : s.leaveHandler.cfg? = s.cfg? := rfl
@[simp] theorem cfg?_makeOutput (s : State) (m : Byte) : (s.makeOutput m).cfg? = s.cfg? := rfl
@[simp] theorem cfg?_driveHigh (s : State) (m : Byte) : (s.driveHigh m).cfg? = s.cfg? := rfl
@[simp] theorem cfg?_driveLow (s : State) (m : Byte) : (s.driveLow m).cfg? = s.cfg? := rfl

@[simp] theorem stopped_advance (s : State) : s.advance.stopped = s.stopped := rfl
@[simp] theorem stopped_enterHandler (s : State) : s.enterHandler.stopped = s.stopped := rfl
@[simp] theorem stopped_leaveHandler (s : State) : s.leaveHandler.stopped = s.stopped := rfl
@[simp] theorem stopped_makeOutput (s : State) (m : Byte) : (s.makeOutput m).stopped = s.stopped := rfl
@[simp] theorem stopped_driveHigh (s : State) (m : Byte) : (s.driveHigh m).stopped = s.stopped := rfl
@[simp] theorem stopped_driveLow (s : State) (m : Byte) : (s.driveLow m).stopped = s.stopped := rfl

/-! ### The fetch -/

theorem progFetch_eq_none {s : State} {i : Index} : progFetch s i = none ↔ s.prog.length ≤ i.toNat := by
  simp [progFetch]

theorem progFetch_lt {s : State} {i : Index} {w : Word} (h : progFetch s i = some w) : i.toNat < s.prog.length := by
  by_contra hc
  rw [progFetch_eq_none.mpr (by omega)] at h
  cases h

/-! ### Raising a stop fault -/

/-- Raising a stop fault answers the state with the pair added (R201). -/
theorem raiseStop_next {e : FaultEntry} {s t : State} : raiseStop e s = .next t ↔ t = s.recordFault e := by
  simp [raiseStop, eq_comm]

/-! ### The interrupt -/

theorem deliverable_iff {s : State} :
    s.deliverable = true ↔ s.stopped = false ∧ s.gie = true ∧ s.tie = true ∧ s.pend = true := by
  simp [State.deliverable, and_assoc]

end Sys2Proof.Machine
end

