-- ==== Sys2Proof/Laws/Meanings.lean ====
section
/-! SUPPORT. What each meaning that has more than one way to end can answer, said once: if it answers `next t`, then one of these
cases holds. The other meanings are one equation, true by rfl. -/

namespace Sys2Proof.Machine

/-! ### Meanings with one way to end -/

theorem exec_rst {s : State} (h : s.cfg?.isSome = true) : exec .rst s = .next (resetPeripherals s).advance :=
  withCfg_isSome h _
theorem exec_enable {s : State} (h : s.cfg?.isSome = true) : exec .enable s = .next { s with gie := true }.advance :=
  withCfg_isSome h _
theorem exec_tconf {s : State} (h : s.cfg?.isSome = true) (x : Sel) :
    exec (.tconf x) s = .next { s with tsel := x, tcnt := 0 }.advance := withCfg_isSome h _
theorem exec_treload {s : State} (h : s.cfg?.isSome = true) (v : Byte) :
    exec (.treload v) s = .next { s with trld := v, tcnt := 0 }.advance := withCfg_isSome h _
theorem exec_tinst {s : State} (h : s.cfg?.isSome = true) : exec .tinst s = .next { s with tie := true }.advance :=
  withCfg_isSome h _
theorem exec_pdir {s : State} (h : s.cfg?.isSome = true) (m : Byte) : exec (.pdir m) s = .next (s.makeOutput m).advance :=
  withCfg_isSome h _
theorem exec_phigh {s : State} (h : s.cfg?.isSome = true) (m : Byte) : exec (.phigh m) s = .next (s.driveHigh m).advance :=
  withCfg_isSome h _
theorem exec_plow {s : State} (h : s.cfg?.isSome = true) (m : Byte) : exec (.plow m) s = .next (s.driveLow m).advance :=
  withCfg_isSome h _
theorem exec_loop {s : State} (h : s.cfg?.isSome = true) (t : Byte) : exec (.loop t) s = .next { s with mpc := loopTarget t } :=
  withCfg_isSome h _
theorem exec_validate (s : State) :
    exec .validate s = .next { s with verdict := some (validate s.params.floorPolicy s.consts) } := rfl

/-- No instruction but VALIDATE is defined without a machine (R50, R115). -/
theorem exec_absent {i : Instr} {s : State} (h : s.cfg? = none) (hi : i ≠ .validate) : exec i s = .refused s.absence := by
  cases i <;> first | exact absurd rfl hi | exact withCfg_none h _

theorem exec_cfg {i : Instr} {s t : State} (h : exec i s = .next t) (hi : i ≠ .validate) : s.cfg?.isSome = true := by
  cases hc : s.cfg? with
  | some c => rfl
  | none => rw [exec_absent hc hi] at h; cases h

/-- The next state of each meaning with one way to end. -/
theorem exec_plain_cases {i : Instr} {s t : State} (h : exec i s = .next t) :
    match i with
    | .rst => t = (resetPeripherals s).advance
    | .enable => t = { s with gie := true }.advance
    | .tconf x => t = { s with tsel := x, tcnt := 0 }.advance
    | .treload v => t = { s with trld := v, tcnt := 0 }.advance
    | .tinst => t = { s with tie := true }.advance
    | .pdir m => t = (s.makeOutput m).advance
    | .phigh m => t = (s.driveHigh m).advance
    | .plow m => t = (s.driveLow m).advance
    | .loop a => t = { s with mpc := loopTarget a }
    | .validate => t = { s with verdict := some (validate s.params.floorPolicy s.consts) }
    | .init _ => True
    | .polls => True
    | .polla => True
    | .tick => True
    | .irq => True := by
  cases i with
  | init _ | polls | polla | tick | irq => trivial
  | validate => cases h; rfl
  | _ => obtain ⟨c, -, h⟩ := withCfg_next h; cases h; rfl

/-! ### INIT -/

theorem exec_init_match {s : State} {c : Cfg} (h : s.cfg? = some c) : exec (.init c.sel) s = .next (initialise c s) := by
  simp [exec, execInit, withCfg_some h]

theorem exec_init_mismatch {s : State} {c : Cfg} {x : Sel} (h : s.cfg? = some c) (hx : x ≠ c.sel) :
    exec (.init x) s = .next (s.recordFault (.cfgMismatch s.mpc x)) := by
  simp [exec, execInit, withCfg_some h, hx, raiseStop]

theorem exec_init_cases {x : Sel} {s t : State} (h : exec (.init x) s = .next t) :
    ∃ c, s.cfg? = some c ∧
      ((x ≠ c.sel ∧ t = s.recordFault (.cfgMismatch s.mpc x)) ∨ (x = c.sel ∧ t = initialise c s)) := by
  obtain ⟨c, hc, h⟩ := withCfg_next h
  refine ⟨c, hc, ?_⟩
  split at h
  next hx => exact .inl ⟨hx, raiseStop_next.mp h⟩
  next hx => exact .inr ⟨not_not.mp hx, by simpa [eq_comm] using h⟩

/-! ### IRQ -/

theorem exec_irq_undef {s : State} {c : Cfg} (h : s.cfg? = some c) (hv : s.cnt = none) :
    exec .irq s = .next (s.recordFault .undefCntIrq) := by
  simp [exec, execIrq, withCfg_some h, hv, raiseStop]

theorem exec_irq_some {s : State} {c : Cfg} {v : Word} (h : s.cfg? = some c) (hv : s.cnt = some v) :
    exec .irq s = .next (handlerBody c v s.enterHandler) := by
  simp [exec, execIrq, withCfg_some h, hv, State.leaveHandler]

theorem exec_irq_cases {s t : State} (h : exec .irq s = .next t) :
    ∃ c, s.cfg? = some c ∧
      ((s.cnt = none ∧ t = s.recordFault .undefCntIrq) ∨
       (∃ v, s.cnt = some v ∧ t = handlerBody c v s.enterHandler)) := by
  obtain ⟨c, hc, -⟩ := withCfg_next h
  refine ⟨c, hc, ?_⟩
  cases hv : s.cnt with
  | none => exact .inl ⟨rfl, by simpa [exec_irq_undef hc hv, eq_comm] using h⟩
  | some v => exact .inr ⟨v, rfl, by simpa [exec_irq_some hc hv, eq_comm] using h⟩

/-- The handler's body: a Boundary reloads the counter and raises the strobe pins, any other invocation counts. -/
theorem handlerBody_cases (c : Cfg) (v : Word) (s : State) :
    (atBoundary s.params.countDir c v = true ∧
      handlerBody c v s = { s with cnt := some (initv s.params.countDir c) }.driveHigh c.mask) ∨
    (atBoundary s.params.countDir c v = false ∧
      handlerBody c v s = { s with cnt := some (countNext s.params.countDir v) }) := by
  unfold handlerBody
  split
  next h => exact .inl ⟨h, rfl⟩
  next h => exact .inr ⟨by simpa using h, rfl⟩

/-! ### POLLS and POLLA -/

theorem exec_polls_undef {s : State} {c : Cfg} (h : s.cfg? = some c) (hv : s.cnt = none) :
    exec .polls s = .next (s.recordFault (.undefCntPolls s.mpc)) := by
  simp [exec, execPolls, withCfg_some h, hv, raiseStop]

theorem exec_polls_atomic {s : State} {c : Cfg} {v : Word} (h : s.cfg? = some c) (hv : s.cnt = some v)
    (ha : s.params.readAtomic = true) : exec .polls s = .next (decideDuty c v s) := by
  simp [exec, execPolls, withCfg_some h, hv, ha]

theorem exec_polls_first {s : State} {c : Cfg} {v : Word} (h : s.cfg? = some c) (hv : s.cnt = some v)
    (ha : s.params.readAtomic = false) (hm : s.msub = false) :
    exec .polls s = .next { s with latlo := some (lowByte v), msub := true } := by
  simp [exec, execPolls, withCfg_some h, hv, ha, hm]

theorem exec_polls_second {s : State} {c : Cfg} {v : Word} (h : s.cfg? = some c) (hv : s.cnt = some v)
    (ha : s.params.readAtomic = false) (hm : s.msub = true) :
    exec .polls s =
      .next (decideDuty c (splitRead v (latchedLow s)) { s with msub := false, choices := choicesAfterLatch s }) := by
  simp [exec, execPolls, withCfg_some h, hv, ha, hm]

theorem exec_polls_cases {s t : State} (h : exec .polls s = .next t) :
    ∃ c, s.cfg? = some c ∧
      ((s.cnt = none ∧ t = s.recordFault (.undefCntPolls s.mpc)) ∨
       (∃ v, s.cnt = some v ∧
         ((s.params.readAtomic = true ∧ t = decideDuty c v s) ∨
          (s.params.readAtomic = false ∧ s.msub = false ∧ t = { s with latlo := some (lowByte v), msub := true }) ∨
          (s.params.readAtomic = false ∧ s.msub = true ∧
            t = decideDuty c (splitRead v (latchedLow s)) { s with msub := false, choices := choicesAfterLatch s })))) := by
  obtain ⟨c, hc, -⟩ := withCfg_next h
  refine ⟨c, hc, ?_⟩
  rcases Option.eq_none_or_eq_some s.cnt with hv | ⟨v, hv⟩
  · exact .inl ⟨hv, Host.Outcome.next.inj (h.symm.trans (exec_polls_undef hc hv))⟩
  · refine .inr ⟨v, hv, ?_⟩
    rcases Bool.eq_false_or_eq_true s.params.readAtomic with ha | ha
    · exact .inl ⟨ha, Host.Outcome.next.inj (h.symm.trans (exec_polls_atomic hc hv ha))⟩
    · rcases Bool.eq_false_or_eq_true s.msub with hm | hm
      · exact .inr (.inr ⟨ha, hm, Host.Outcome.next.inj (h.symm.trans (exec_polls_second hc hv ha hm))⟩)
      · exact .inr (.inl ⟨ha, hm, Host.Outcome.next.inj (h.symm.trans (exec_polls_first hc hv ha hm))⟩)

theorem exec_polla_undef {s : State} {c : Cfg} (h : s.cfg? = some c) (hd : s.pdec = none) :
    exec .polla s = .next (s.recordFault (.undefDec s.mpc)) := by
  simp [exec, execPolla, withCfg_some h, hd, raiseStop]

theorem exec_polla_true {s : State} {c : Cfg} (h : s.cfg? = some c) (hd : s.pdec = some true) :
    exec .polla s = .next (s.driveLow c.mask).advance := by
  simp [exec, execPolla, withCfg_some h, hd]

theorem exec_polla_false {s : State} {c : Cfg} (h : s.cfg? = some c) (hd : s.pdec = some false) :
    exec .polla s = .next s.advance := by
  simp [exec, execPolla, withCfg_some h, hd]

theorem exec_polla_cases {s t : State} (h : exec .polla s = .next t) :
    ∃ c, s.cfg? = some c ∧
      ((s.pdec = none ∧ t = s.recordFault (.undefDec s.mpc)) ∨ (s.pdec = some true ∧ t = (s.driveLow c.mask).advance) ∨
       (s.pdec = some false ∧ t = s.advance)) := by
  obtain ⟨c, hc, -⟩ := withCfg_next h
  refine ⟨c, hc, ?_⟩
  cases hd : s.pdec with
  | none => exact .inl ⟨rfl, by simpa [exec_polla_undef hc hd, eq_comm] using h⟩
  | some b =>
    cases b with
    | true => exact .inr (.inl ⟨rfl, by simpa [exec_polla_true hc hd, eq_comm] using h⟩)
    | false => exact .inr (.inr ⟨rfl, by simpa [exec_polla_false hc hd, eq_comm] using h⟩)

/-! ### TICK -/

theorem exec_tick_unset {s : State} (hc : s.cfg?.isSome = true) (h : s.trld = 0) :
    exec .tick s = .next (s.recordFault .reloadUnset) := by
  show withCfg s _ = _
  rw [withCfg_isSome hc, if_pos h]
  rfl

theorem exec_tick_event {s : State} (hc : s.cfg?.isSome = true) (h : s.trld ≠ 0) (he : s.trld.toNat ≤ s.tcnt.toNat + 1) :
    exec .tick s = .next (timerEvent { s with tcnt := 0 }) := by
  show withCfg s _ = _
  rw [withCfg_isSome hc, if_neg h, if_pos he]

theorem exec_tick_count {s : State} (hc : s.cfg?.isSome = true) (h : s.trld ≠ 0) (he : s.tcnt.toNat + 1 < s.trld.toNat) :
    exec .tick s = .next { s with tcnt := s.tcnt + 1 } := by
  show withCfg s _ = _
  rw [withCfg_isSome hc, if_neg h, if_neg (Nat.not_le.mpr he)]

theorem exec_tick_cases {s t : State} (h : exec .tick s = .next t) :
    (s.trld = 0 ∧ t = s.recordFault .reloadUnset) ∨
    (s.trld ≠ 0 ∧ s.trld.toNat ≤ s.tcnt.toNat + 1 ∧ t = timerEvent { s with tcnt := 0 }) ∨
    (s.trld ≠ 0 ∧ s.tcnt.toNat + 1 < s.trld.toNat ∧ t = { s with tcnt := s.tcnt + 1 }) := by
  have hc := exec_cfg h (by simp)
  by_cases h0 : s.trld = 0
  · exact .inl ⟨h0, Host.Outcome.next.inj (h.symm.trans (exec_tick_unset hc h0))⟩
  · rcases Nat.lt_or_ge (s.tcnt.toNat + 1) s.trld.toNat with hl | hg
    · exact .inr (.inr ⟨h0, hl, Host.Outcome.next.inj (h.symm.trans (exec_tick_count hc h0 hl))⟩)
    · exact .inr (.inl ⟨h0, hg, Host.Outcome.next.inj (h.symm.trans (exec_tick_event hc h0 hg))⟩)

/-- A timer event sets PEND, and records the loss when the previous event still waits for an installed handler (R163). -/
theorem timerEvent_cases (s : State) :
    (s.pend = true ∧ s.tie = true ∧ timerEvent s = { s.recordFault .overrun with pend := true }) ∨
    ((s.pend = false ∨ s.tie = false) ∧ timerEvent s = { s with pend := true }) := by
  cases hp : s.pend <;> cases ht : s.tie <;> simp [timerEvent, hp, ht]

/-! ### Every instruction completes where the machine exists -/

theorem exec_completes (i : Instr) {s : State} (hc : s.cfg?.isSome = true) : ∃ t, exec i s = .next t := by
  obtain ⟨c, h⟩ := Option.isSome_iff_exists.mp hc
  cases i with
  | init x =>
    by_cases hx : x = c.sel
    · exact ⟨_, hx ▸ exec_init_match h⟩
    · exact ⟨_, exec_init_mismatch h hx⟩
  | irq =>
    cases hv : s.cnt with
    | none => exact ⟨_, exec_irq_undef h hv⟩
    | some v => exact ⟨_, exec_irq_some h hv⟩
  | polls =>
    cases hv : s.cnt with
    | none => exact ⟨_, exec_polls_undef h hv⟩
    | some v =>
      cases ha : s.params.readAtomic with
      | true => exact ⟨_, exec_polls_atomic h hv ha⟩
      | false =>
        cases hm : s.msub with
        | true => exact ⟨_, exec_polls_second h hv ha hm⟩
        | false => exact ⟨_, exec_polls_first h hv ha hm⟩
  | polla =>
    rcases hd : s.pdec with _ | _ | _
    · exact ⟨_, exec_polla_undef h hd⟩
    · exact ⟨_, exec_polla_false h hd⟩
    · exact ⟨_, exec_polla_true h hd⟩
  | tick =>
    by_cases h0 : s.trld = 0
    · exact ⟨_, exec_tick_unset hc h0⟩
    · rcases Nat.lt_or_ge (s.tcnt.toNat + 1) s.trld.toNat with hl | hg
      · exact ⟨_, exec_tick_count hc h0 hl⟩
      · exact ⟨_, exec_tick_event hc h0 hg⟩
  | validate => exact ⟨_, exec_validate s⟩
  | rst | enable | tconf _ | treload _ | tinst | pdir _ | phigh _ | plow _ | loop _ => exact ⟨_, withCfg_isSome hc _⟩

/-! ### MAIN -/

theorem mainStep_range {s : State} (hc : s.cfg?.isSome = true) (h : s.prog.length ≤ s.mpc.toNat) :
    mainStep s = .next (s.recordFault (.pcRange s.mpc)) := by
  simp [mainStep, withCfg_isSome hc, progFetch_eq_none.mpr h, raiseStop]

theorem mainStep_illegal {s : State} {w : Word} {e : Illegal} (hc : s.cfg?.isSome = true) (h : progFetch s s.mpc = some w)
    (hd : decode w = .error e) : mainStep s = .next (s.recordFault (.illegal s.mpc w)) := by
  simp [mainStep, withCfg_isSome hc, h, hd, raiseStop]

theorem mainStep_command {s : State} {w : Word} {i : Instr} (hc : s.cfg?.isSome = true) (h : progFetch s s.mpc = some w)
    (hd : decode w = .ok i) : mainStep s = exec i s := by
  simp [mainStep, withCfg_isSome hc, h, hd]

theorem mainStep_cases {s t : State} (h : mainStep s = .next t) :
    (s.prog.length ≤ s.mpc.toNat ∧ t = s.recordFault (.pcRange s.mpc)) ∨
    (∃ w, progFetch s s.mpc = some w ∧ t = s.recordFault (.illegal s.mpc w)) ∨
    (∃ w i, progFetch s s.mpc = some w ∧ decode w = .ok i ∧ exec i s = .next t) := by
  obtain ⟨c, hc, -⟩ := withCfg_next h
  have hc := cfg?_isSome hc
  cases hw : progFetch s s.mpc with
  | none =>
    have := progFetch_eq_none.mp hw
    exact .inl ⟨this, Host.Outcome.next.inj (h.symm.trans (mainStep_range hc this))⟩
  | some w =>
    cases hd : decode w with
    | error e => exact .inr (.inl ⟨w, rfl, Host.Outcome.next.inj (h.symm.trans (mainStep_illegal hc hw hd))⟩)
    | ok i => exact .inr (.inr ⟨w, i, rfl, hd, by rw [← mainStep_command hc hw hd, h]⟩)

theorem agentStep_completes (a : Agent) {s : State} (hc : s.cfg?.isSome = true) : ∃ t, agentStep a s = .next t := by
  cases a with
  | irq => exact exec_completes .irq hc
  | clock => exact exec_completes .tick hc
  | main =>
    cases hw : progFetch s s.mpc with
    | none => exact ⟨_, mainStep_range hc (progFetch_eq_none.mp hw)⟩
    | some w =>
      cases hd : decode w with
      | error e => exact ⟨_, mainStep_illegal hc hw hd⟩
      | ok i => obtain ⟨t, h⟩ := exec_completes i hc; exact ⟨t, (mainStep_command hc hw hd).trans h⟩

/-- An agent steps only where the machine exists (R50, R115). -/
theorem agentStep_cfg {a : Agent} {s t : State} (h : agentStep a s = .next t) : s.cfg?.isSome = true := by
  cases a with
  | main => obtain ⟨c, hc, -⟩ := withCfg_next h; exact cfg?_isSome hc
  | irq => exact exec_cfg (i := .irq) h (by simp)
  | clock => exact exec_cfg (i := .tick) h (by simp)

/-! ### The choice of the agent, and the step -/

theorem mayStep_main {s : State} : mayStep s .main = true ↔ s.stopped = false ∧ s.deliverable = false := by
  simp [mayStep]

theorem mayStep_irq {s : State} : mayStep s .irq = true ↔ s.deliverable = true := Iff.rfl

theorem mayStep_clock {s : State} : mayStep s .clock = true ↔ s.stopped = false ∧ s.tsel ≠ 0 := by
  simp [mayStep]

theorem mem_enabled {s : State} {a : Agent} : a ∈ enabled s ↔ mayStep s a = true := by
  cases a <;> simp [enabled]

/-- The front of the admissible choices names an agent that may step. -/
theorem admissible_head {s : State} {a : Agent} {rest : List Agent} (h : admissible s = a :: rest) : mayStep s a = true := by
  have : ∀ l : List Agent, l.dropWhile (fun a => !mayStep s a) = a :: rest → mayStep s a = true := by
    intro l
    induction l with
    | nil => simp
    | cons x xs ih =>
      intro hx
      rw [List.dropWhile_cons] at hx
      split at hx
      · exact ih hx
      next hc =>
        cases hx
        simpa using hc
  exact this _ h

/-- Whatever is picked may step, and picking changes the scheduling fields only. -/
theorem pick_some {s t : State} {a : Agent} (h : pick s = some (a, t)) :
    mayStep s a = true ∧ ∃ l n, t = { s with sched := l, choices := n } := by
  unfold pick at h
  split at h
  next b rest hb =>
    cases h
    exact ⟨admissible_head hb, _, s.choices, rfl⟩
  · split at h
    · cases h
    next b hb =>
      cases h
      exact ⟨mem_enabled.mp (by simp [hb]), _, s.choices, rfl⟩
    next b d rest hb =>
      cases h
      refine ⟨mem_enabled.mp ?_, _, _, rfl⟩
      split <;> simp [hb]

/-- Nothing is picked exactly when no agent may step. -/
theorem pick_none {s : State} : pick s = none ↔ ∀ a, mayStep s a = false := by
  constructor
  · intro h
    unfold pick at h
    split at h
    · cases h
    · split at h
      next he =>
        intro a
        have : a ∉ enabled s := by simp [he]
        simpa [mem_enabled] using this
      · cases h
      · cases h
  · intro h
    cases hp : pick s with
    | none => rfl
    | some p =>
      obtain ⟨a, t⟩ := p
      have := (pick_some hp).1
      rw [h a] at this
      cases this

/-- Some agent may step exactly when no stop fault is recorded. -/
theorem some_mayStep {s : State} : (∃ a, mayStep s a = true) ↔ s.stopped = false := by
  constructor
  · rintro ⟨a, ha⟩
    cases a
    · exact (mayStep_main.mp ha).1
    · exact (deliverable_iff.mp (mayStep_irq.mp ha)).1
    · exact (mayStep_clock.mp ha).1
  · intro h
    cases hd : s.deliverable with
    | true => exact ⟨.irq, mayStep_irq.mpr hd⟩
    | false => exact ⟨.main, mayStep_main.mpr ⟨h, hd⟩⟩

/-- The first coming choice is taken when its agent may step. -/
theorem pick_sched {s : State} {a : Agent} {l : List Agent} (h : mayStep s a = true) (hs : s.sched = a :: l) :
    pick s = some (a, { s with sched := l }) := by
  simp [pick, admissible, hs, h]

/-- What one step can be. -/
theorem step_cases {s t : State} (h : step s = .next t) :
    (s.verdict = none ∧ exec .validate s = .next t) ∨
    (∃ c a u, s.cfg? = some c ∧ pick s = some (a, u) ∧ agentStep a u = .next t) := by
  unfold step machineStep at h
  split at h
  next hv => exact .inl ⟨hv, h⟩
  · obtain ⟨c, hc, h⟩ := withCfg_next h
    split at h
    · cases h
    next a u hp => exact .inr ⟨c, a, u, hc, hp, h⟩

theorem step_picked {s u : State} {a : Agent} (hc : s.cfg?.isSome = true) (hp : pick s = some (a, u)) :
    step s = agentStep a u := by
  obtain ⟨c, d, hv⟩ := cfg?_isSome_verdict hc
  simp [step, machineStep, hv, withCfg_isSome hc, hp]

/-- Without a machine there is no step after the build (R50, R115). -/
theorem step_absent {s : State} (hc : s.cfg? = none) (hv : s.verdict ≠ none) : step s = .refused s.absence := by
  obtain ⟨v, hv⟩ := Option.ne_none_iff_exists'.mp hv
  simp [step, machineStep, hv, withCfg_none hc]

theorem step_unbuilt {s : State} (h : s.verdict = none) : step s = exec .validate s := by
  simp [step, machineStep, h]

theorem step_rejected {s : State} {d : Byte} (h : s.verdict = some (.reject d)) : step s = .refused .noDeviceImage := by
  obtain ⟨hc, ha⟩ := absent_of_accepted? (s := s) (by simp [State.accepted?, h])
  rw [step_absent hc (by simp [h]), ha]

end Sys2Proof.Machine
end

