-- ==== Sys2Proof/Laws/Frames.lean ====
section
/-! SUPPORT. What no step of an agent changes, and the counter and the levels after one handler step. -/

namespace Sys2Proof.Machine

theorem SameLaunch.refl (s : State) : SameLaunch s s := ⟨rfl, rfl, rfl, rfl⟩

/-- States of one launch have one machine. -/
theorem SameLaunch.cfg? {s t : State} (h : SameLaunch s t) : t.cfg? = s.cfg? :=
  cfg?_congr h.2.2.1 (by rw [h.1]) h.2.1 h.2.2.2

theorem sameLaunch_recordFault (s : State) (e : FaultEntry) : SameLaunch s (s.recordFault e) := ⟨rfl, rfl, rfl, rfl⟩

theorem addsFault_recordFault (s : State) (e : FaultEntry) : AddsFault e s (s.recordFault e) := by
  intro x
  simp

/-- A stop fault changes FAULT and nothing else. -/
theorem onlyChanges_recordFault (s : State) (e : FaultEntry) : OnlyChanges [.fault] s (s.recordFault e) := by
  refine ⟨?_, ⟨rfl, rfl, rfl, rfl⟩, rfl, rfl⟩
  intro r hr
  cases r <;> first | rfl | exact absurd (List.mem_singleton.mpr rfl) hr

/-- No command and no event but VALIDATE writes the parameters of the launch (20_memory.md R51). -/
theorem exec_sameLaunch {i : Instr} {s t : State} (h : exec i s = .next t) (hi : i ≠ .validate) : SameLaunch s t := by
  cases i with
  | validate => exact absurd rfl hi
  | init x => obtain ⟨c, -, ⟨-, rfl⟩ | ⟨-, rfl⟩⟩ := exec_init_cases h <;> exact ⟨rfl, rfl, rfl, rfl⟩
  | irq =>
    obtain ⟨c, -, ⟨-, rfl⟩ | ⟨v, -, rfl⟩⟩ := exec_irq_cases h
    · exact sameLaunch_recordFault s _
    · rcases handlerBody_cases c v s.enterHandler with ⟨-, e⟩ | ⟨-, e⟩ <;> rw [e] <;> exact ⟨rfl, rfl, rfl, rfl⟩
  | polls =>
    obtain ⟨c, -, ⟨-, rfl⟩ | ⟨v, -, ⟨-, rfl⟩ | ⟨-, -, rfl⟩ | ⟨-, -, rfl⟩⟩⟩ := exec_polls_cases h <;> exact ⟨rfl, rfl, rfl, rfl⟩
  | polla => obtain ⟨c, -, ⟨-, rfl⟩ | ⟨-, rfl⟩ | ⟨-, rfl⟩⟩ := exec_polla_cases h <;> exact ⟨rfl, rfl, rfl, rfl⟩
  | tick =>
    rcases exec_tick_cases h with ⟨-, rfl⟩ | ⟨-, -, rfl⟩ | ⟨-, -, rfl⟩
    · exact sameLaunch_recordFault s _
    · rcases timerEvent_cases { s with tcnt := 0 } with ⟨-, -, e⟩ | ⟨-, e⟩ <;> rw [e] <;> exact ⟨rfl, rfl, rfl, rfl⟩
    · exact ⟨rfl, rfl, rfl, rfl⟩
  | rst | enable | tconf _ | treload _ | tinst | pdir _ | phigh _ | plow _ | loop _ =>
    have e : t = _ := exec_plain_cases h
    subst e
    exact ⟨rfl, rfl, rfl, rfl⟩

/-- The counter after one invocation of the handler (41_engine.md R121, R122). -/
theorem exec_irq_cnt {s t : State} {c : Cfg} {v : Word} (hc : s.cfg? = some c) (hv : s.cnt = some v)
    (h : exec .irq s = .next t) :
    t.cnt = some (if atBoundary s.params.countDir c v then initv s.params.countDir c else countNext s.params.countDir v) := by
  rw [exec_irq_some hc hv] at h
  cases h
  rcases handlerBody_cases c v s.enterHandler with ⟨h, e⟩ | ⟨h, e⟩ <;> rw [e] <;> simp at h <;> simp [h]

/-- The pins after one invocation of the handler (41_engine.md R121, R122). -/
theorem exec_irq_pins {s t : State} {c : Cfg} {v : Word} (hc : s.cfg? = some c) (hv : s.cnt = some v)
    (h : exec .irq s = .next t) :
    t.lvl = (if atBoundary s.params.countDir c v then s.lvl ||| c.mask else s.lvl) ∧ t.dir = s.dir := by
  rw [exec_irq_some hc hv] at h
  cases h
  rcases handlerBody_cases c v s.enterHandler with ⟨h, e⟩ | ⟨h, e⟩ <;> rw [e] <;> simp at h <;> simp [h]

/-- Two instructions in a row, one step at a time. -/
theorem execAll_cons {i : Instr} {is : List Instr} {s t u : State} (h : exec i s = .next t) (h' : execAll is t = .next u) :
    execAll (i :: is) s = .next u := by
  simp [execAll, h, h']

theorem execAll_single {i : Instr} {s t : State} (h : exec i s = .next t) : execAll [i] s = .next t := by
  simp [execAll, h]

/-- The reset state's fault record is in its canonical form (log entry 8); `FaultSet.wf_insert` keeps it. -/
theorem reset_fault_wf : FaultSet.wf State.reset.fault := List.Pairwise.nil

end Sys2Proof.Machine
end

