-- ==== Sys2Proof/Laws/PerInstr.lean ====
section
/-! SUPPORT. The statements made of every instruction as syntax, one lemma per constructor. -/

namespace Sys2Proof.Laws

namespace Format

/-- The one format of 30_encoding.md R70 and R71: OP and IMM of an instruction's code are its opcode and its operand, and a
well-formed instruction's operand is legal in its operand form. -/
def Statement (i : Instr) : Prop :=
  opField (encode i) = i.opcode ∧ immField (encode i) = i.operand ∧ (i.wf = true → i.form.legal i.operand = true)

theorem opField_append (a b : Byte) : opField (a ++ b) = a := by
  apply BitVec.eq_of_getLsbD_eq
  intro i hi
  simp only [opField, BitVec.getLsbD_extractLsb', hi, decide_true, Bool.true_and, BitVec.getLsbD_append]
  simp

theorem immField_append (a b : Byte) : immField (a ++ b) = b := by
  apply BitVec.eq_of_getLsbD_eq
  intro i hi
  simp only [immField, BitVec.getLsbD_extractLsb', hi, decide_true, Bool.true_and, BitVec.getLsbD_append]
  simp [hi]

/-- A selector in IMM[2:0] leaves IMM[7:3] zero. -/
theorem selHigh_setWidth : ∀ s : Sel, selHigh (s.setWidth 8) = 0 := by decide

theorem of_legal {i : Instr} (h : i.wf = true → i.form.legal i.operand = true) : Statement i :=
  ⟨opField_append _ _, immField_append _ _, h⟩

theorem rst : Statement .rst := of_legal fun _ => rfl
theorem init (s : Sel) : Statement (.init s) := of_legal fun _ => by simp [Instr.form, Form.legal, Instr.operand, selHigh_setWidth]
theorem enable : Statement .enable := of_legal fun _ => rfl
theorem tconf (s : Sel) : Statement (.tconf s) := of_legal fun _ => by simp [Instr.form, Form.legal, Instr.operand, selHigh_setWidth]
theorem treload (v : Byte) : Statement (.treload v) := of_legal id
theorem tinst : Statement .tinst := of_legal fun _ => rfl
theorem pdir (m : Byte) : Statement (.pdir m) := of_legal fun _ => rfl
theorem phigh (m : Byte) : Statement (.phigh m) := of_legal fun _ => rfl
theorem plow (m : Byte) : Statement (.plow m) := of_legal fun _ => rfl
theorem polls : Statement .polls := of_legal fun _ => rfl
theorem polla : Statement .polla := of_legal fun _ => rfl
theorem loop (t : Byte) : Statement (.loop t) := of_legal fun _ => rfl
theorem tick : Statement .tick := of_legal fun _ => rfl
theorem irq : Statement .irq := of_legal fun _ => rfl
theorem validate : Statement .validate := of_legal fun _ => rfl

end Format

end Sys2Proof.Laws
end

