-- ==== Sys2Proof/Tests/Slice0.lean ====
section
/-! SUPPORT. The model's own tests: the checks of WellFormed, words written out bit by bit from 30_encoding.md R70 to R73, the
worked vectors of 95_test_vectors.md (named by their ids), and a witness for the hypotheses of each obligation. -/

namespace Sys2Proof.Tests

open Sys2Proof.Machine

/-! ### Helpers -/

def nextState : Host.Outcome State Fault Refusal → Option State
  | .next s => some s
  | .fault _ => none
  | .refused _ => none

/-- `C_EX` of 95_test_vectors.md with a program loaded, MPC 1, CNT `v`, the timer as INIT leaves it. -/
def exState (v : Word) : State :=
  { State.reset with prog := [0x0100, 0x0202, 0x0300], cnt := some v, mpc := 1, tie := true, tsel := 2, trld := 243 }

/-- `C_S` of 95_test_vectors.md with the canonical firmware L3-P1, the loop at index 3 under way: interrupts on, CNT `v`. -/
def smallState (d : CountDir) (v : Word) : State :=
  { State.launch ⟨d, true, .reject⟩ ⟨128, 1, 1, 32, 4, 1, 0x01⟩ (some (.accept ⟨128, .f1, .p1, 32, 4, 1, 0x01⟩ 0x00))
      [0x0100, 0x0201, 0x0300, 0x3000, 0x3100, 0x4003] with
    cnt := some v, mpc := 3, gie := true, tie := true, tsel := 1, trld := 32, dir := 0x01 }

/-- `smallState` with the event of a timer period pending. -/
def pendingState (d : CountDir) (v : Word) : State := { smallState d v with pend := true }

/-- `smallState` with a split counter read. -/
def splitState (d : CountDir) (v : Word) : State :=
  { smallState d v with params := ⟨d, false, .reject⟩ }

/-- N = 1250 with the duty count of S12 and S13, a split counter read. -/
def tornState (d : CountDir) (k : Word) (v : Word) : State :=
  { State.launch ⟨d, false, .reject⟩ ⟨19440000, 8, 8, 243, 1250, k.toNat, 0x01⟩
      (some (.accept ⟨19440000, .f8, .p8, 243, 1250, k, 0x01⟩ 0x00)) [0x3000] with cnt := some v }

/-- The moves of a schedule from a state, if it is admissible. -/
def movesOf : List Agent → State → Option (List Move × State)
  | [], s => some ([], s)
  | a :: l, s =>
    if s.cfg?.isSome = true ∧ mayStep s a = true then
      match agentStep a s with
      | .next t => (movesOf l t).map fun r => (⟨a, s, t⟩ :: r.1, r.2)
      | .fault _ => none
      | .refused _ => none
    else none

theorem run_movesOf {l : List Agent} {s t : State} {ms : List Move} (h : movesOf l s = some (ms, t)) : Run s ms t := by
  induction l generalizing s ms with
  | nil => cases h; exact .stop _
  | cons a l ih =>
    unfold movesOf at h
    split at h
    next hm =>
      split at h
      next u hu =>
        obtain ⟨⟨ms', t'⟩, h1, h2⟩ := Option.map_eq_some_iff.mp h
        cases h2
        exact .move ⟨hm.1, hm.2, hu⟩ (ih h1)
      · cases h
      · cases h
    · cases h

/-- The invariant of a built state as one decidable check. -/
theorem invariant_of {s : State} {c : Cfg} {d : Byte} {v : Word} (hv : s.verdict = some (.accept c d)) (hc : s.cnt = some v)
    (h : validate s.params.floorPolicy s.consts = .accept c d ∧ cntInRange s.params.countDir c v = true ∧
      s.mpc.toNat ≤ 256 ∧ (1 ≤ s.prog.length ∧ s.prog.length ≤ 256) ∧ s.tsel.toNat ≤ 5 ∧ (s.trld ≠ 0 → s.tcnt.toNat < s.trld.toNat) ∧
      FaultSet.wf s.fault ∧ (s.params.readAtomic = true → s.msub = false ∧ s.latlo = none) ∧ s.msub = false) :
    Invariant s := by
  obtain ⟨h1, h2, h3, h4, h5, h6, h7, h8, h9⟩ := h
  have hcfg : s.cfg? = some c := cfg?_eq_some.mpr ⟨h4, d, hv, h1⟩
  refine ⟨?_, ?_, ?_, h3, h4.2, h5, h6, h7, h8, ?_⟩
  · intro x hx; rw [hv] at hx; cases hx; exact h1.symm
  · intro hn; rw [hv] at hn; cases hn
  · intro c' v' h1 h2'; rw [hcfg] at h1; rw [hc] at h2'; cases h1; cases h2'; exact h2
  · intro hm; rw [h9] at hm; cases hm

/-! ### WellFormed: the checks refuse an ill-formed term (R71, R73, R74) -/

theorem test_wf_init_selectors :
    (Instr.init 0).wf = false ∧ (Instr.init 6).wf = false ∧ (Instr.init 7).wf = false ∧ (Instr.init 1).wf = true ∧
    (Instr.init 5).wf = true := by decide

theorem test_wf_tconf_selectors :
    (Instr.tconf 6).wf = false ∧ (Instr.tconf 7).wf = false ∧ (Instr.tconf 0).wf = true ∧ (Instr.tconf 5).wf = true := by decide

theorem test_wf_treload_zero : (Instr.treload 0).wf = false ∧ (Instr.treload 1).wf = true ∧ (Instr.treload 255).wf = true := by
  decide

/-! ### Decode: OP ++ IMM bit by bit (R70 to R73) -/

theorem test_decode_lifecycle :
    decode 0b0000000100000000#16 = .ok .rst ∧ decode 0b0000001000000101#16 = .ok (.init 5) ∧
    decode 0b0000001100000000#16 = .ok .enable ∧ decode 0b0100000000000011#16 = .ok (.loop 3) := by decide

theorem test_decode_timer :
    decode 0b0001000000000101#16 = .ok (.tconf 5) ∧ decode 0b0001000111110011#16 = .ok (.treload 243) ∧
    decode 0b0001001000000000#16 = .ok .tinst ∧ decodeCode 0b1110000000000000#16 = .ok .tick := by decide

theorem test_decode_gpio :
    decode 0b0010000011111111#16 = .ok (.pdir 0xFF) ∧ decode 0b0010000100000101#16 = .ok (.phigh 0x05) ∧
    decode 0b0010001000000101#16 = .ok (.plow 0x05) := by decide

theorem test_decode_engine :
    decode 0b0011000000000000#16 = .ok .polls ∧ decode 0b0011000100000000#16 = .ok .polla ∧
    decodeCode 0b1110000100000000#16 = .ok .irq ∧ decodeCode 0b1111000000000000#16 = .ok .validate := by decide

theorem test_decode_illegal :
    decode 0x0000 = .error (.unassigned 0) ∧ decode 0x0101 = .error .nonzeroOperand ∧ decode 0x0200 = .error (.badSelector 0) ∧
    decode 0x0206 = .error (.badSelector 6) ∧ decode 0x020A = .error .selectorHighBits ∧ decode 0x1100 = .error .zeroReload ∧
    decode 0xE000 = .error .eventCode ∧ decode 0xE001 = .error .nonzeroOperand ∧ decode 0xFFFF = .error (.unassigned 0xFF) := by
  decide

theorem test_decodeTableWord :
    decodeTableWord 16 0x0100 = some .rst ∧ decodeTableWord 16 0xE100 = some .irq ∧ decodeTableWord 16 0x0200 = none ∧
    decodeTableWord 16 0x1000 = some (.tconf 0) := by decide

/-! ### The validator (V1 to V21) -/

theorem test_validate_accepts :
    validate .reject ⟨19440000, 8, 8, 243, 1250, 10, 0x01⟩ = .accept Cfg.scenario 0x00 ∧ Cfg.scenario.sel = 2 ∧
    diagOf .reject ⟨128, 1, 1, 32, 4, 3, 0x01⟩ = 0x00 ∧ diagOf .warn ⟨124, 1, 1, 31, 4, 1, 0x01⟩ = 0x80 := by decide

theorem test_validate_rejects :
    diagOf .reject ⟨19440000, 8, 8, 244, 1250, 10, 0x01⟩ = 0x02 ∧ diagOf .reject ⟨124, 1, 1, 31, 4, 1, 0x01⟩ = 0x04 ∧
    diagOf .warn ⟨0, 1, 1, 0, 4, 1, 0x01⟩ = 0x04 ∧ diagOf .reject ⟨0, 1, 1, 32, 0, 0, 0x01⟩ = 0x18 ∧
    diagOf .reject ⟨19440000, 8, 32, 243, 1250, 10, 0x01⟩ = 0x03 ∧ diagOf .reject ⟨19440000, 2, 8, 243, 1250, 10, 0x01⟩ = 0x22 ∧
    diagOf .reject ⟨3756007424, 8, 1024, 255, 65535, 1, 0x01⟩ = 0x02 ∧
    diagOf .reject ⟨136899993600, 8, 1024, 255, 65535, 1, 0x01⟩ = 0x40 ∧
    diagOf .reject ⟨19440000, 8, 8, 300, 70000, 70000, 0x01⟩ = 0x1E := by decide

/-- V19's messages; and under WARN a low reload beside a factorization mismatch: one message per set bit (D8). -/
theorem test_messages :
    (validate .reject ⟨19440000, 8, 8, 300, 70000, 70000, 0x01⟩).messages = [1, 2, 3, 4].map diagMessage ∧
    (validate .warn ⟨125, 1, 1, 31, 4, 1, 0x01⟩).messages = [1, 7].map diagMessage := by decide

/-! ### The counting engine (I1 to I12, S1 to S13, A1 to A4) -/

/-- I3, I5, I7. -/
theorem test_irq_down :
    (nextState (exec .irq { pendingState .down 1 with lvl := 0x82 })).map (fun t => (t.cnt, t.lvl, t.pend)) =
      some (some 4, 0x83, false) ∧
    (nextState (exec .irq (pendingState .down 0))).map (fun t => (t.cnt, t.lvl)) = some (some 0xFFFF, 0x00) := by decide

/-- I9, I10. -/
theorem test_irq_up :
    (nextState (exec .irq (pendingState .up 3))).map (fun t => (t.cnt, t.lvl)) = some (some 0, 0x01) ∧
    (nextState (exec .irq (pendingState .up 4))).map (fun t => (t.cnt, t.lvl)) = some (some 5, 0x00) := by decide

/-- S2, S3. -/
theorem test_polls_threshold :
    (nextState (exec .polls (exState 1241))).map (fun t => (t.pdec, t.mpc)) = some (some false, 2) ∧
    (nextState (exec .polls (exState 1240))).map (fun t => (t.pdec, t.mpc)) = some (some true, 2) := by decide

/-- S12, S13. -/
theorem test_polls_torn :
    (nextState (execAll [.polls, .irq, .polls] (tornState .down 500 768))).map (fun t => (t.cnt, t.pdec)) =
      some (some 767, some true) ∧
    (nextState (execAll [.polls, .irq, .polls] (tornState .up 300 255))).map (fun t => (t.cnt, t.pdec)) =
      some (some 256, some true) := by decide

/-- A1, A3. -/
theorem test_polla :
    (nextState (exec .polla { exState 700 with pdec := some true, lvl := 0x03 })).map (fun t => (t.lvl, t.mpc)) = some (0x02, 2) ∧
    (nextState (exec .polla { exState 700 with pdec := some false, lvl := 0x03 })).map (fun t => (t.lvl, t.mpc)) =
      some (0x03, 2) := by decide

/-- A4. -/
theorem test_polla_undef :
    (nextState (exec .polla { exState 700 with lvl := 0x03 })).map (fun t => (t.lvl, t.mpc, t.fault)) =
      some (0x03, 1, [.undefDec 1]) := by decide

/-! ### The lifecycle commands (L1 to L9) -/

/-- L1. -/
theorem test_rst :
    (nextState (exec .rst { exState 700 with gie := true, pend := true, tcnt := 17, dir := 0x01, lvl := 0x01, mpc := 6 })).map
      (fun t => (t.gie || t.tie || t.pend, t.tsel, t.trld, t.tcnt, t.dir, t.lvl, t.cnt, t.mpc)) =
      some (false, 0, 0, 0, 0x00, 0x00, some 700, 7) := by decide

/-- L3's state before. -/
def restartState : State :=
  { exState 37 with gie := true, pend := true, lvl := 0x81, dir := 0x81, tcnt := 100, pdec := some true, mpc := 9 }

/-- L3. -/
theorem test_init :
    (nextState (exec (.init 2) restartState)).map (fun t => (t.gie || t.pend, t.cnt, t.tcnt)) = some (false, some 1250, 0) ∧
    (nextState (exec (.init 2) restartState)).map (fun t => (t.lvl, t.dir, t.pdec, t.mpc)) =
      some (0x80, 0x81, some true, 10) := by decide

/-- L4. -/
theorem test_init_mismatch :
    (nextState (exec (.init 3) (exState 37))).map (fun t => (t.fault, t.cnt, t.mpc)) =
      some ([.cfgMismatch 1 3], some 37, 1) := by decide

/-- L7. -/
theorem test_enable :
    (nextState (exec .enable { exState 37 with pend := true, mpc := 2 })).map
      (fun t => (t.gie, t.mpc, mayStep t .main, mayStep t .irq)) = some (true, 3, false, true) := by decide

/-- L8, L9. -/
theorem test_loop :
    (nextState (exec (.loop 200) { smallState .down 4 with mpc := 5 })).map (fun t => (t.mpc, nextState (mainStep t) |>.map State.fault)) =
      some (200, some [.pcRange 200]) := by decide

/-! ### The timer (T1 to T11) and the port (G1 to G5) -/

/-- T2, T4, T5. -/
theorem test_timer_commands :
    (nextState (exec (.tconf 0) { exState 37 with tcnt := 9 })).map (fun t => (t.tsel, t.tcnt, mayStep t .clock)) =
      some (0, 0, false) ∧
    (nextState (exec (.treload 10) { exState 37 with tcnt := 200 })).map (fun t => (t.trld, t.tcnt)) = some (10, 0) ∧
    (nextState (exec .tinst { exState 37 with tie := false })).map State.tie = some true := by decide

/-- T8, T10. -/
theorem test_tick_event :
    (nextState (exec .tick { exState 37 with trld := 255, tcnt := 254 })).map (fun t => (t.tcnt, t.pend, t.fault)) =
      some (0, true, []) ∧
    (nextState (exec .tick { exState 37 with trld := 32, tcnt := 31, pend := true })).map (fun t => (t.tcnt, t.pend, t.fault)) =
      some (0, true, [.overrun]) := by decide

/-- A tick with no reload value programmed is no timer event (R162); the tick that completes a period is one. -/
theorem test_timerEvent :
    Move.isTimerEvent ⟨.clock, { exState 37 with trld := 0 }, exState 37⟩ = false ∧
    Move.isTimerEvent ⟨.clock, { exState 37 with tcnt := 242 }, exState 37⟩ = true := by decide

/-- T6's first tick, and T9. -/
theorem test_tick_count :
    (nextState (exec .tick { exState 37 with trld := 3 })).map (fun t => (t.tcnt, t.pend)) = some (1, false) ∧
    (nextState (exec .tick { exState 37 with trld := 0 })).map State.fault = some [.reloadUnset] := by decide

/-- G1, G3, G4. -/
theorem test_port :
    (nextState (exec (.pdir 0x01) { exState 37 with lvl := 0x01 })).map (fun t => (t.dir, t.lvl)) = some (0x01, 0x01) ∧
    (nextState (exec (.phigh 0x05) { exState 37 with lvl := 0x02 })).map (fun t => (t.dir, t.lvl)) = some (0x00, 0x07) ∧
    (nextState (exec (.plow 0x05) { exState 37 with dir := 0xFF, lvl := 0x07 })).map (fun t => (t.dir, t.lvl)) =
      some (0xFF, 0x02) := by decide

/-- The example under G5. -/
theorem test_strobe_off :
    strobeOn 0x03 { exState 37 with dir := 0x03, lvl := 0x01 } = .off ∧
    strobeOn 0x03 { exState 37 with dir := 0x03, lvl := 0x03 } = .one ∧
    strobeOn 0x03 { exState 37 with dir := 0x03, lvl := 0x00 } = .zero ∧ strobeOn 0x00 (exState 37) = .off := by decide

/-! ### Delivery (Q1 to Q6), the fetch, the choice of the agent -/

/-- Q1, Q5, Q6. -/
theorem test_mayStep :
    [Agent.main, .irq, .clock].map (mayStep (pendingState .down 4)) = [false, true, true] ∧
    [Agent.main, .irq, .clock].map (mayStep { pendingState .down 4 with fault := [.reloadUnset] }) = [false, false, false] ∧
    [Agent.main, .irq, .clock].map (mayStep { pendingState .down 4 with fault := [.overrun] }) = [false, true, true] := by decide

/-- L3-P4 and L3-P5, the last step of each. -/
theorem test_main_faults :
    (nextState (mainStep { State.reset with prog := [0x0100, 0x0000], mpc := 1 })).map State.fault = some [.illegal 1 0x0000] ∧
    (nextState (mainStep { State.reset with prog := [0x0100], mpc := 1 })).map State.fault = some [.pcRange 1] := by decide

/-- A quiescent state has no step (R200). -/
theorem test_quiescent : step { exState 37 with fault := [.pcRange 0] } = .fault .quiescent := by rfl

/-- With no program loaded there is no machine (R50), and none for an acceptance VALIDATE did not give (R115). -/
theorem test_no_machine :
    step State.reset = .refused .noProgram ∧ exec .rst State.reset = .refused .noProgram ∧
    step { exState 37 with consts := ⟨0, 1, 1, 32, 0, 0, 0x01⟩ } = .refused .noDeviceImage ∧
    exec .tick { exState 37 with verdict := some (.reject 0x02) } = .refused .noDeviceImage := ⟨rfl, rfl, rfl, rfl⟩

/-- The coming choice decides between IRQ and CLOCK, which may both step (Q1). -/
theorem test_step_choice :
    (nextState (step { pendingState .down 4 with sched := [.irq] })).map (fun t => (t.cnt, t.tcnt, t.sched)) =
      some (some 3, 0, []) ∧
    (nextState (step { pendingState .down 4 with sched := [.clock] })).map (fun t => (t.cnt, t.tcnt)) = some (some 4, 1) := by
  decide

/-- From reset, the step after placing a code runs it. -/
theorem test_withFetchWord :
    (nextState (step (State.reset.withFetchWord 16 0x0300))).map State.gie = some true ∧
    (nextState (step (State.reset.withFetchWord 16 0x40FF))).map State.mpc = some 255 ∧
    (nextState (step (State.reset.withFetchWord 16 0xE100))).map State.fault = some [.undefCntIrq] ∧
    (nextState (step (State.reset.withFetchWord 16 0xE000))).map State.fault = some [.reloadUnset] ∧
    (nextState (step (State.reset.withFetchWord 16 0xF000))).map State.verdict = some State.reset.verdict := by decide

/-! ### The assembler (R78, R79) -/

/-- L3-P1, as text. -/
theorem test_assemble :
    Asm.assemble ["RST", "INIT /1 ; the prescaler", "ENABLE", "l: POLLS", "POLLA", "LOOP l"] =
      .ok [0x0100, 0x0201, 0x0300, 0x3000, 0x3100, 0x4003] ∧
    (Asm.canonicalFirmware 1).map encode = [0x0100, 0x0201, 0x0300, 0x3000, 0x3100, 0x4003] ∧
    Asm.assemble [] = .error .programEmpty := by decide

/-! ### Witnesses: a concrete state and operands for the hypotheses of each obligation, at the ends of a clause's range -/

/-- `smallState` with a timer period of one tick, so that a schedule is short. -/
def quickState (d : CountDir) (v : Word) : State := { smallState d v with trld := 1 }

/-- `State.reset` with an illegal word at index 1, where MAIN is. -/
def illegalState : State := { State.reset with prog := [0x0100, 0x0000], mpc := 1 }

/-- The configuration of `smallState`. -/
def smallCfg : Cfg := ⟨128, .f1, .p1, 32, 4, 1, 0x01⟩

/-- V21 and the largest N: constants that are accepted at the ends of the ranges. -/
def edgeConsts : Consts := ⟨1048560 * 2, 1, 1, 32, 65535, 65534, 0xFF⟩

/-- A schedule's moves, checked by a decidable test. -/
theorem run_check {l : List Agent} {s : State} {p : List Move → State → Bool}
    (h : (movesOf l s).any (fun r => p r.1 r.2) = true) : ∃ ms t, Run s ms t ∧ p ms t = true := by
  cases hm : movesOf l s with
  | none => rw [hm] at h; cases h
  | some r =>
    rw [hm] at h
    exact ⟨r.1, r.2, run_movesOf hm, h⟩

theorem quick_invariant : Invariant (quickState .down 4) := invariant_of (c := smallCfg) (d := 0) rfl rfl (by decide)

theorem quick_disciplined {s : State} (h : s.prog = (smallState .down 0).prog) : Disciplined s := by
  intro c w i _ hw hd
  rw [h] at hw
  simp only [smallState, State.launch, List.mem_cons, List.not_mem_nil, or_false] at hw
  rcases hw with rfl | rfl | rfl | rfl | rfl | rfl <;> cases hd <;> rfl

/-- Encoding: `DecodeInvertsEncode`, `EncodeInvertsDecode`, `AssemblerEmitsTheEncoding`, `PseudoInstructionsExpand`. -/
theorem witness_encoding :
    (Instr.init 5).wf = true ∧ (Instr.init 5).isCommand = true ∧ (Instr.tick).wf = true ∧ decode 0x0205 = .ok (.init 5) ∧
    255 ≤ 255 := by decide

/-- `IllegalWordsAreTheListed`, `IllegalWordStops`, `EventCodesAreNoCommands`. -/
theorem witness_illegal :
    illegalState.cfg?.isSome = true ∧ progFetch illegalState illegalState.mpc = some 0x0000 ∧ decode 0x0000 = .error (.unassigned 0) ∧
    0xE000#16 ∈ [0xE000#16, 0xE100#16, 0xF000#16] ∧
    ((0xE001#16).extractLsb' 8 8).toNat ∈ [0xE0, 0xE1, 0xF0] ∧ (0xE001#16).extractLsb' 0 8 ≠ 0 := by decide

/-- `DerivedConstantsFit`, `ValidateAcceptsExactly`, `AcceptedConfigurationFactors`, `MessagesNameTheFailedChecks`. -/
theorem witness_validate :
    validate .reject edgeConsts = .accept (cfgOf edgeConsts) 0x00 ∧
    validate .reject ⟨19440000, 8, 8, 300, 70000, 70000, 0x01⟩ = .reject 0x1E ∧
    validate .warn ⟨124, 1, 1, 31, 4, 1, 0x01⟩ = .accept (cfgOf ⟨124, 1, 1, 31, 4, 1, 0x01⟩) 0x80 ∧
    ∀ p ∈ [1, 8, 64, 256, 1024], diagOf .reject ⟨128 * p, 1, p, 32, 4, 1, 0x01⟩ = 0x00 := by decide

/-- `RejectedConfigurationHasNoMachine`. -/
theorem witness_rejected :
    (let s := { smallState .down 4 with verdict := none, consts := ⟨128, 1, 1, 32, 4, 4, 0x01⟩ }
     s.verdict = none ∧ validate s.params.floorPolicy s.consts = .reject 0x10) ∧
    (let s := { smallState .down 4 with consts := ⟨128, 1, 1, 32, 4, 4, 0x01⟩ }
     s.verdict ≠ none ∧ validate s.params.floorPolicy s.consts = .reject 0x10) ∧
    ∃ t, step { quickState .down 4 with sched := [.clock] } = .next t :=
  ⟨by decide, by decide, ⟨_, rfl⟩⟩

/-- `ProgramLengthIsLegal`: the shortest and the longest store, and the first lengths beyond. -/
theorem witness_programLength :
    (∃ t, agentStep .main (smallState .down 4) = .next t) ∧ Asm.assemble ["RST"] = .ok [0x0100] ∧
    (smallState .down 4).verdict = some (validate (smallState .down 4).params.floorPolicy (smallState .down 4).consts) ∧
    ([0, 1, 256, 257].map fun n => { smallState .down 4 with prog := List.replicate n 0x0100 }.loaded) =
      [false, true, true, false] :=
  ⟨⟨_, rfl⟩, by decide, by decide, by simp [State.loaded]⟩

/-- `RstResetsPeripherals`, and the changes that `EnableSetsGie`, `TinstInstallsTheHandler` and `PortCommandsWriteTheirMask`
speak of. -/
theorem witness_rst :
    ∃ t u, exec .rst (smallState .down 4) = .next t ∧ exec .rst t = .next u ∧ (smallState .down 4).gie = true ∧ t.gie = false ∧
      (smallState .down 4).tie = true ∧ t.tie = false ∧ (smallState .down 4).dir &&& ~~~t.dir ≠ 0 :=
  ⟨_, _, rfl, rfl, rfl, rfl, rfl, rfl, by decide⟩

/-- The statements of one instruction each, where the machine exists: `RstResetsPeripherals`, `RstIsNoLaunch`, `EnableSetsGie`,
`LoopSetsTheIndex`, `TinstInstallsTheHandler`, `TickCountsOnePeriod`, `PortCommandsWriteTheirMask`; and the operands of
`TconfSelectsAndRestarts` and `TreloadSetsThePeriod` at the ends of their ranges. -/
theorem witness_machine :
    (smallState .down 4).cfg?.isSome = true ∧ (smallState .up 4).relaunch.cfg?.isSome = true ∧
    ((0 : Sel).toNat ≤ 5 ∧ (5 : Sel).toNat ≤ 5) ∧ ((1 : Byte) ≠ 0 ∧ (255 : Byte) ≠ 0) := by decide

/-- `InitProgramsTheEngine`, `InitMismatchStops`, `InitIsACommandSequence`, in both conventions. -/
theorem witness_init :
    (∀ d, (smallState d 4).cfg? = some smallCfg ∧ (smallState d 4).params.countDir = d) ∧ smallCfg.mask ≠ 0 ∧ (5 : Sel) ≠ smallCfg.sel ∧
    ∃ t, exec (.init 1) (pendingState .down 2) = .next t ∧ t.cnt ≠ (pendingState .down 2).cnt ∧
      (pendingState .down 2).pend = true ∧ t.pend = false :=
  ⟨fun d => by cases d <;> exact ⟨rfl, rfl⟩, by decide, by decide, _, rfl, by decide, rfl, rfl⟩

/-- `EnableSetsGie`: an event waits for the enable. -/
theorem witness_enable :
    let s := { pendingState .down 4 with gie := false }
    s.stopped = false ∧ s.tie = true ∧ s.pend = true := by decide

/-- `LoopSetsTheIndex`, `FetchStopsPastTheEnd`: the last index of the program and the first past it. -/
theorem witness_fetch :
    (5 : Index).toNat < (smallState .down 4).prog.length ∧ (smallState .down 4).prog.length ≤ (6 : Byte).toNat ∧
    { smallState .down 4 with mpc := 6 }.prog.length ≤ { smallState .down 4 with mpc := 6 }.mpc.toNat := by decide

/-- `CommandsAdvanceTheIndex`: each clause. -/
theorem witness_advance :
    (∃ t, exec .enable (smallState .down 4) = .next t ∧ t.stopped = false) ∧
    (∃ t, exec .polls (splitState .down 4) = .next t ∧ t.msub = true) ∧
    (∃ t, exec .polls { splitState .down 4 with msub := true, latlo := some 4 } = .next t ∧ t.stopped = false) ∧
    ∃ t, exec .tick (smallState .down 4) = .next t := ⟨⟨_, rfl, rfl⟩, ⟨_, rfl, rfl⟩, ⟨_, rfl, rfl⟩, _, rfl⟩

/-- `MainFaultsInOrder`: each source of a fault. -/
theorem witness_mainFaults :
    (∃ t, mainStep { smallState .down 4 with mpc := 6 } = .next t ∧ .pcRange 6 ∈ t.fault ∧ .pcRange 6 ∉ (smallState .down 4).fault) ∧
    (∃ t, mainStep illegalState = .next t ∧ .illegal 1 0x0000 ∈ t.fault ∧ .illegal 1 0x0000 ∉ illegalState.fault) ∧
    (∃ t, mainStep { smallState .down 4 with cnt := none } = .next t ∧ .undefCntPolls 3 ∈ t.fault) ∧
    (∃ t, mainStep { smallState .down 4 with mpc := 4 } = .next t ∧ .undefDec 4 ∈ t.fault) ∧
    ∃ t, mainStep { smallState .down 4 with prog := [0x0202], mpc := 0 } = .next t ∧ .cfgMismatch 0 2 ∈ t.fault :=
  ⟨⟨_, rfl, by decide⟩, ⟨_, rfl, by decide⟩, ⟨_, rfl, by decide⟩, ⟨_, rfl, by decide⟩, _, rfl, by decide⟩

/-- `TickCountsOnePeriod`: each branch. -/
theorem witness_tick :
    State.reset.trld = 0 ∧
    (let s := { smallState .down 4 with tcnt := 30 }
     s.trld ≠ 0 ∧ s.tcnt.toNat + 1 < s.trld.toNat) ∧
    (let s := { pendingState .down 4 with tcnt := 31 }
     s.trld ≠ 0 ∧ ¬ s.tcnt.toNat + 1 < s.trld.toNat ∧ s.pend = true ∧ s.tie = true) ∧
    (let s := { smallState .down 4 with tcnt := 31 }
     s.trld ≠ 0 ∧ ¬ s.tcnt.toNat + 1 < s.trld.toNat ∧ ¬ (s.pend = true ∧ s.tie = true)) := by decide

/-- `TimerPeriodContract`: three ticks of a period of three. -/
theorem witness_timerPeriod :
    ∃ ms t, Run { smallState .down 4 with trld := 3 } ms t ∧
      (decide ((smallState .down 4).trld ≠ 0 ∧ ms.length = 3) && ms.all fun m => !m.retimes) = true :=
  run_check (l := [.clock, .clock, .clock]) (by decide)

/-- `StrobePinsMoveTogether`, `StrobeByMasks`: each level. -/
theorem witness_strobe :
    (smallState .down 4).cfg? = some smallCfg ∧ (smallState .down 4).lvl &&& smallCfg.mask = 0 ∧
    (smallState .down 4).dir &&& smallCfg.mask = smallCfg.mask ∧
    { smallState .down 4 with lvl := 0x01 }.lvl &&& smallCfg.mask = smallCfg.mask ∧
    (∃ t, exec .irq (smallState .down 1) = .next t) ∧ strobe (smallState .down 4) = .zero ∧
    strobe { smallState .down 4 with lvl := 0x01 } = .one ∧ strobe { smallState .down 4 with dir := 0x00 } = .off :=
  ⟨rfl, rfl, rfl, rfl, ⟨_, rfl⟩, by decide, by decide, by decide⟩

/-- `IrqCountsOrReloads`: CNT UNDEF, and each branch in each convention. -/
theorem witness_irq :
    { smallState .down 4 with cnt := none }.cfg? = some smallCfg ∧
    ((1 : Word) - 1 = 0 ∧ (0 : Word) - 1 ≠ 0) ∧ ((3 : Word) + 1 = smallCfg.N ∧ (4 : Word) + 1 ≠ smallCfg.N) := by decide

/-- `FirstBoundaryAfter`: reachable values, and those no run reaches. -/
theorem witness_firstBoundary :
    (smallState .up 0xFFFF).cfg? = some smallCfg ∧
    (3 < if (4 : Word) = 0 then 65536 else (4 : Word).toNat) ∧ (65535 < if (0 : Word) = 0 then 65536 else (0 : Word).toNat) ∧
    (4 < if (0xFFFF : Word).toNat < smallCfg.N.toNat then smallCfg.N.toNat - (0xFFFF : Word).toNat
      else 65536 - (0xFFFF : Word).toNat + smallCfg.N.toNat) := by decide

/-- `PeriodProperty`: X5, four handler steps from CNT = 2. -/
theorem witness_period :
    ∃ ms t, Run (quickState .down 2) ms t ∧
      (decide ((quickState .down 2).cfg? = some smallCfg ∧ (quickState .down 2).cnt = some 2 ∧
        cntInRange .down smallCfg 2 = true ∧ (ms.filter Move.isIrq).length = smallCfg.N.toNat) &&
        ms.all fun m => !m.restarts) = true :=
  run_check (l := [.clock, .irq, .clock, .irq, .clock, .irq, .clock, .irq]) (by decide)

/-- `BoundaryMakesTheRisingEdge`, `OnlyBoundariesRaiseTheStrobe`: I3. -/
theorem witness_risingEdge :
    Disciplined (pendingState .down 1) ∧
    ∃ t, Admits .irq (pendingState .down 1) t ∧ (pendingState .down 1).cnt = some 1 ∧ risingEdge (pendingState .down 1) t = true :=
  ⟨quick_disciplined rfl, _, ⟨rfl, by decide, rfl⟩, rfl, by decide⟩

/-- `PollsLatchesTheDecision`, `PollsReadsInTwoHalves`, `PollaLowersTheStrobe`: the state of each clause. -/
theorem witness_polls :
    { smallState .down 4 with cnt := none }.cfg? = some smallCfg ∧ (smallState .up 4).params.readAtomic = true ∧
    { splitState .down 4 with cnt := none }.cfg? = some smallCfg ∧
    (splitState .down 4).cfg? = some smallCfg ∧ (splitState .down 4).params.readAtomic = false ∧ (splitState .down 4).msub = false ∧
    { splitState .up 4 with msub := true, latlo := some 0xFF }.latlo = some 0xFF ∧
    { splitState .up 4 with msub := true }.latlo = none ∧ (smallState .down 4).pdec = none ∧
    strobe { smallState .down 3 with pdec := some true, lvl := 0x01 } = .one := by decide

/-- `DutyDecisionCountsPeriods`: one period after a Boundary. -/
theorem witness_dutyDecision :
    Invariant (quickState .down 4) ∧ ∃ ms t, Run (quickState .down 4) ms t ∧
      (decide ((quickState .down 4).cfg? = some smallCfg ∧ (quickState .down 4).params.readAtomic = true ∧
        (quickState .down 4).cnt = some (initv .down smallCfg) ∧ (ms.filter Move.isIrq).length < smallCfg.N.toNat) &&
        ms.all fun m => !m.restarts) = true :=
  ⟨quick_invariant, run_check (l := [.clock, .irq]) (by decide)⟩

/-- `DutyProperty`: the loop of L3-P1 after its Boundary, two handler steps for D = 1. -/
theorem witness_dutyProperty :
    Invariant { quickState .down 4 with lvl := 0x01 } ∧ Disciplined { quickState .down 4 with lvl := 0x01 } ∧
    strobe { quickState .down 4 with lvl := 0x01 } = .one ∧
    ∃ ms t, Run { quickState .down 4 with lvl := 0x01 } ms t ∧
      (ms.all (fun m => !m.restarts) &&
        decide ((∀ q < ms.length, moveAt Move.isPolla ms q = true → ∃ p < q, moveAt Move.endsPolls ms p = true) ∧ PR1 ms ∧
          (ms.filter Move.isIrq).length = smallCfg.D.toNat + 1)) = true :=
  ⟨invariant_of (c := smallCfg) (d := 0) rfl rfl (by decide), quick_disciplined rfl, by decide,
    run_check (l := [.main, .main, .main, .clock, .irq, .main, .main, .main, .clock, .irq]) (by decide)⟩

/-- `ConventionsAgree`, `RestartReproducesTheStart`. -/
theorem witness_conventions :
    Invariant (quickState .down 4) ∧ (quickState .down 4).cfg?.isSome = true ∧ (quickState .down 4).params.countDir = .down ∧
    (quickState .down 4).params.readAtomic = true ∧ Invariant { quickState .down 4 with mpc := 4, lvl := 0x80 } ∧
    SameLaunch (quickState .down 4) { quickState .down 4 with mpc := 4, lvl := 0x80 } ∧
    Invariant (splitState .up 3) ∧ Invariant { splitState .up 2 with latlo := some 2 } ∧
    SameLaunch (splitState .up 3) { splitState .up 2 with latlo := some 2 } ∧ (splitState .up 3).cfg? = some smallCfg ∧
    (splitState .up 3).msub = false ∧ (splitState .up 2).msub = false :=
  ⟨quick_invariant, rfl, rfl, rfl, invariant_of (c := smallCfg) (d := 0) rfl rfl (by decide), ⟨rfl, rfl, rfl, rfl⟩,
    invariant_of (c := smallCfg) (d := 0) rfl rfl (by decide), invariant_of (c := smallCfg) (d := 0) rfl rfl (by decide),
    ⟨rfl, rfl, rfl, rfl⟩, rfl, rfl, rfl⟩

/-- `TornReadsMissByAPage`: S12 and S13, and the smallest and largest counter values. -/
theorem witness_torn :
    (tornState .down 500 768).cfg?.isSome = true ∧ (tornState .down 500 768).msub = false ∧
    ((768 : Word).extractLsb' 0 8 = 0 ∧ 256 ≤ (768 : Word).toNat) ∧ ((256 : Word).extractLsb' 0 8 = 0 ∧ 256 ≤ (256 : Word).toNat) ∧
    ((255 : Word).extractLsb' 0 8 = 255 ∧ (255 : Word) + 1 ≠ 1250 ∧ (255 : Word).toNat < 65280) ∧
    ((65279 : Word).extractLsb' 0 8 = 255 ∧ (65279 : Word).toNat < 65280) := by decide

/-- `ClippedPulse`: L3-P6. -/
theorem witness_clipped :
    Invariant (smallState .down 1) ∧ (smallState .down 1).cnt = some 1 ∧ (smallState .down 1).params.readAtomic = true ∧
    strobe (smallState .down 1) = .zero :=
  ⟨invariant_of (c := smallCfg) (d := 0) rfl rfl (by decide), rfl, rfl, by decide⟩

/-- `AgentsStepWhenTheyMay`, `InterruptPreemptsMain`, `StepRunsTheDecodedInstruction`: each agent's step. -/
theorem witness_agents :
    (∃ t, (pendingState .down 4).deliverable = true ∧ step { pendingState .down 4 with sched := [.irq] } = .next t) ∧
    (∃ u, pick { pendingState .down 4 with sched := [.irq] } = some (.irq, u)) ∧
    (∃ u, pick { pendingState .down 4 with sched := [.clock] } = some (.clock, u)) ∧
    (∃ u, pick { smallState .down 4 with sched := [.main] } = some (.main, u)) ∧
    progFetch (smallState .down 4) (smallState .down 4).mpc = some 0x3000 ∧ decode 0x3000 = .ok .polls ∧
    mayStep (smallState .down 4) .main = true ∧ (smallState .down 4).cfg?.isSome = true :=
  ⟨⟨_, by decide, rfl⟩, ⟨_, rfl⟩, ⟨_, rfl⟩, ⟨_, rfl⟩, rfl, rfl, by decide, rfl⟩

/-- `StopFaultsStopTheMachine`, `FaultRecordIsSticky`, `PendingEventsWait`. -/
theorem witness_faults :
    (∃ t, agentStep .main { smallState .down 4 with mpc := 6 } = .next t ∧ (smallState .down 4).stopped = false ∧ t.stopped = true) ∧
    (∃ t, agentStep .clock { pendingState .down 4 with tcnt := 31 } = .next t ∧ .overrun ∈ t.fault ∧
      .overrun ∉ (pendingState .down 4).fault) ∧
    (∃ t, step { smallState .down 4 with fault := [.overrun], sched := [.clock] } = .next t) ∧
    (∃ t, agentStep .clock { smallState .down 4 with tcnt := 31 } = .next t ∧ (smallState .down 4).pend = false ∧ t.pend = true) ∧
    (∃ t, agentStep .irq (pendingState .down 4) = .next t ∧ (pendingState .down 4).pend = true ∧ t.pend = false) ∧
    ∀ i : Index, i.toNat < 2 →
      ∃ t, agentStep .main { pendingState .down 4 with gie := false, mpc := i } = .next t ∧ t.pend = false :=
  ⟨⟨_, rfl, by decide⟩, ⟨_, rfl, by decide⟩, ⟨_, rfl⟩, ⟨_, rfl, rfl, rfl⟩, ⟨_, rfl, rfl, rfl⟩, fun i hi => by
    obtain rfl | rfl : i = 0 ∨ i = 1 := by bv_omega
    · exact ⟨_, rfl, rfl⟩
    · exact ⟨_, rfl, rfl⟩⟩

/-- `OnlyTheListedStepsWrite`: registers that change. -/
theorem witness_writes :
    (∃ t, exec .irq (pendingState .down 1) = .next t ∧ t.cnt ≠ some 1 ∧ t.lvl ≠ 0x00) ∧
    (∃ t, exec .polls (splitState .down 4) = .next t ∧ t.latlo ≠ none ∧ t.msub ≠ false) ∧
    ∃ t, exec (.tconf 2) (smallState .down 4) = .next t ∧ t.tsel ≠ 1 :=
  ⟨⟨_, rfl, by decide⟩, ⟨_, rfl, by decide⟩, _, rfl, by decide⟩

/-- `ReachableStatesMeetTheInvariant`, `StepKeepsTheInvariant`, `LaunchParametersAreFixed`: a launch and the first steps of L3-P1. -/
theorem witness_reachable :
    IsLaunch (smallState .down 4).relaunch ∧ (∃ ms t, Run (smallState .down 4).relaunch ms t ∧ decide (t.mpc = 3) = true) ∧
    ∃ t, step (smallState .down 4).relaunch = .next t :=
  ⟨⟨rfl, rfl⟩, run_check (l := [.main, .main, .main]) (by decide), _, rfl⟩

end Sys2Proof.Tests
end

section
/-! What an acceptance of VALIDATE says of the raw constants (40_validator.md R100 to R111). -/

namespace Sys2Proof

/-- No check that is an error failed: bits 0 to 6 of `DIAG` (R108). The warning of bit 7 is not among them. -/
structure ErrorFree (p : FloorPolicy) (k : Consts) : Prop where
  prescaler : ePrescaler k = false
  factorization : eFactorization k = false
  reloadRange : eReloadRange p k = false
  repeatRange : eRepeatRange k = false
  dutyRange : eDutyRange k = false
  fuse : eFuse k = false
  oscRange : eOscRange k = false

/-- A mask that meets the error bits shows its check there. -/
theorem diagBit_and_errorMask_eq_zero {m : Byte} (hm : m &&& 0x7F#8 ≠ 0#8) (b : Bool) : diagBit b m &&& 0x7F#8 = 0#8 ↔ b = false := by
  cases b
  · simp [diagBit]
  · simpa [diagBit] using hm

/-- The warning's bit lies outside the error bits (R108). -/
theorem diagBit_warning_and_errorMask (b : Bool) : diagBit b 0x80#8 &&& 0x7F#8 = 0#8 := by
  cases b <;> decide

/-- Each error has its own bit below bit 7, so the low seven bits of `DIAG` vanish exactly when every error's check passes. -/
theorem diagOf_and_errorMask_eq_zero (p : FloorPolicy) (k : Consts) : diagOf p k &&& 0x7F = 0 ↔ ErrorFree p k := by
  simp (disch := decide) only [diagOf, BitVec.ofNat_eq_ofNat, BitVec.and_or_distrib_right, BitVec.or_eq_zero_iff,
    diagBit_and_errorMask_eq_zero, diagBit_warning_and_errorMask, and_true, and_assoc]
  constructor
  · rintro ⟨h₀, h₁, h₂, h₃, h₄, h₅, h₆⟩
    exact ⟨h₀, h₁, h₂, h₃, h₄, h₅, h₆⟩
  · rintro ⟨h₀, h₁, h₂, h₃, h₄, h₅, h₆⟩
    exact ⟨h₀, h₁, h₂, h₃, h₄, h₅, h₆⟩

/-- VALIDATE accepts exactly the constants without an error, with the configuration made of them (R109, R111). -/
theorem validate_eq_accept {p : FloorPolicy} {k : Consts} {c : Cfg} {d : Byte} :
    validate p k = .accept c d ↔ ErrorFree p k ∧ c = cfgOf k ∧ d = diagOf p k := by
  unfold validate
  split
  next h => simp [(diagOf_and_errorMask_eq_zero p k).mp h, eq_comm]
  next h => simp [mt (diagOf_and_errorMask_eq_zero p k).mpr h]

theorem eRepeatRange_eq_false {k : Consts} : eRepeatRange k = false ↔ 1 ≤ k.N ∧ k.N ≤ 65535 := by
  simp [eRepeatRange, Nat.one_le_iff_ne_zero]

theorem eDutyRange_eq_false {k : Consts} : eDutyRange k = false ↔ 1 ≤ k.D ∧ k.D < k.N := by
  simp [eDutyRange]

/-- The repeat count of constants without an error is held whole (R105, R111). -/
theorem ErrorFree.cfgOf_N_toNat {p : FloorPolicy} {k : Consts} (h : ErrorFree p k) : (cfgOf k).N.toNat = k.N := by
  obtain ⟨-, hN⟩ := eRepeatRange_eq_false.mp h.repeatRange
  exact Nat.mod_eq_of_lt (by omega)

/-- The duty count of constants without an error is held whole, as it is below the repeat count (R105, R106, R111). -/
theorem ErrorFree.cfgOf_D_toNat {p : FloorPolicy} {k : Consts} (h : ErrorFree p k) : (cfgOf k).D.toNat = k.D := by
  obtain ⟨-, hN⟩ := eRepeatRange_eq_false.mp h.repeatRange
  obtain ⟨-, hD⟩ := eDutyRange_eq_false.mp h.dutyRange
  exact Nat.mod_eq_of_lt (by omega)

/-- Counting down the threshold does not wrap when the duty count is at most the repeat count (R7). -/
theorem thr_down_toNat {c : Cfg} (h : c.D.toNat ≤ c.N.toNat) : (thr .down c).toNat = c.N.toNat - c.D.toNat :=
  BitVec.toNat_sub_of_le h

/-- Settles O8: an accepted configuration holds N and D whole, and D is below N. -/
theorem derivedConstantsFit : Obligations.DerivedConstantsFit := by
  intro p k c d h
  obtain ⟨hk, rfl, -⟩ := validate_eq_accept.mp h
  obtain ⟨-, hDN⟩ := eDutyRange_eq_false.mp hk.dutyRange
  have hN := hk.cfgOf_N_toNat
  have hD := hk.cfgOf_D_toNat
  refine ⟨hN, rfl, ?_, hD⟩
  rw [thr_down_toNat (by omega), hN, hD]

end Sys2Proof
end

section
/-! What Decode can answer, said once (30_encoding.md R70 to R75). -/

namespace Sys2Proof

theorem decodeZ_ok {imm : Byte} {i j : Instr} (h : decodeZ imm i = .ok j) : imm = 0 ∧ i = j := by
  unfold decodeZ at h
  split at h
  next h0 => exact ⟨h0, Except.ok.inj h⟩
  · cases h

theorem decodeSel_ok {lo : Nat} {imm : Byte} {mk : Sel → Instr} {j : Instr} (h : decodeSel lo imm mk = .ok j) :
    selHigh imm = 0 ∧ (lo ≤ (selField imm).toNat ∧ (selField imm).toNat ≤ 5) ∧ mk (selField imm) = j := by
  unfold decodeSel at h
  split at h
  · cases h
  next h0 =>
    split at h
    next hr => exact ⟨not_not.mp h0, hr, Except.ok.inj h⟩
    · cases h

theorem decodeReload_ok {imm : Byte} {j : Instr} (h : decodeReload imm = .ok j) : imm ≠ 0 ∧ .treload imm = j := by
  unfold decodeReload at h
  split at h
  next h0 => exact ⟨h0, Except.ok.inj h⟩
  · cases h

theorem decodeEventOp_ne_ok (imm : Byte) (j : Instr) : decodeEventOp imm ≠ .ok j := by
  unfold decodeEventOp
  split <;> simp

/-- A byte with its high five bits 0 is its selector field (R71). -/
theorem setWidth_selField : ∀ imm : Byte, selHigh imm = 0 → (selField imm).setWidth 8 = imm := by decide

theorem opField_append_immField (w : Word) : opField w ++ immField w = w :=
  (BitVec.extractLsb'_append_extractLsb'_eq_extractLsb' (by decide)).trans BitVec.extractLsb'_eq_self

/-- What a program word decodes to is a command with legal operands, of that word's opcode and operand (R72 to R74). -/
theorem decode_ok {w : Word} {i : Instr} (h : decode w = .ok i) :
    i.isCommand = true ∧ i.wf = true ∧ i.opcode = opField w ∧ i.operand = immField w := by
  have hop : ∀ b : Byte, (opField w).toNat = b.toNat → b = opField w := fun b hb => BitVec.eq_of_toNat_eq hb.symm
  unfold decode at h
  dsimp only at h
  split at h
  -- the forms of R71 in turn: Z, SEL, U8, then MASK and TGT; the event codes; an OP of no row
  case h_1 | h_3 | h_6 | h_10 | h_11 =>
    obtain ⟨h0, rfl⟩ := decodeZ_ok h
    exact ⟨rfl, rfl, hop _ ‹_›, h0.symm⟩
  case h_2 | h_4 =>
    obtain ⟨h0, hr, rfl⟩ := decodeSel_ok h
    exact ⟨rfl, by simp [Instr.wf, hr], hop _ ‹_›, setWidth_selField _ h0⟩
  case h_5 =>
    obtain ⟨h0, rfl⟩ := decodeReload_ok h
    exact ⟨rfl, decide_eq_true h0, hop _ ‹_›, rfl⟩
  case h_7 | h_8 | h_9 | h_12 =>
    cases h
    exact ⟨rfl, rfl, hop _ ‹_›, rfl⟩
  case h_13 | h_14 | h_15 => exact absurd h (decodeEventOp_ne_ok _ _)
  case h_16 => cases h

/-- A program word that decodes is the code of what it decodes to. -/
theorem encode_of_decode {w : Word} {i : Instr} (h : decode w = .ok i) : encode i = w := by
  obtain ⟨-, -, hop, himm⟩ := decode_ok h
  rw [encode, hop, himm, opField_append_immField]

end Sys2Proof
end

section
/-! The command MAIN executes, and what an agent's step can be (42_lifecycle.md R140, 60_exceptions.md R210). -/

namespace Sys2Proof.Machine

theorem nextCommand_eq_some {s : State} {i : Instr} :
    nextCommand s = some i ↔ ∃ w, progFetch s s.mpc = some w ∧ decode w = .ok i := by
  unfold nextCommand
  cases progFetch s s.mpc with
  | none => simp
  | some w => cases hd : decode w <;> simp [hd, Except.toOption]

/-- What an agent's step can be: it raises a stop fault at the fetch, or it executes an instruction, a command only as MAIN fetches
it (R140, R146, R210). -/
theorem agentStep_cases {a : Agent} {s t : State} (h : agentStep a s = .next t) :
    (∃ e, t = s.recordFault e) ∨
    (∃ i, i ≠ .validate ∧ (i.isCommand = true → nextCommand s = some i) ∧ exec i s = .next t) := by
  cases a with
  | main =>
    rcases mainStep_cases h with ⟨-, ht⟩ | ⟨w, -, ht⟩ | ⟨w, i, hw, hd, hx⟩
    · exact .inl ⟨_, ht⟩
    · exact .inl ⟨_, ht⟩
    · refine .inr ⟨i, ?_, fun _ => nextCommand_eq_some.mpr ⟨w, hw, hd⟩, hx⟩
      rintro rfl
      exact absurd (decode_ok hd).1 (by decide)
  | irq => exact .inr ⟨.irq, by decide, by simp [Instr.isCommand], h⟩
  | clock => exact .inr ⟨.tick, by decide, by simp [Instr.isCommand], h⟩

end Sys2Proof.Machine
end

section
/-! STROBE read by masks (10_state.md R36). -/

namespace Sys2Proof.Machine

theorem and_eq_mask_iff {x m : Byte} : x &&& m = m ↔ ∀ i, m.getLsbD i = true → x.getLsbD i = true := by
  constructor
  · intro h i hi
    rw [← h, BitVec.getLsbD_and, Bool.and_eq_true] at hi
    exact hi.1
  · intro h
    refine BitVec.eq_of_getLsbD_eq fun i _ => ?_
    rw [BitVec.getLsbD_and]
    cases hm : m.getLsbD i with
    | false => simp
    | true => simp [h i hm]

theorem and_eq_zero_iff {x m : Byte} : x &&& m = 0 ↔ ∀ i, m.getLsbD i = true → x.getLsbD i = false := by
  constructor
  · intro h i hi
    have hb : (x &&& m).getLsbD i = false := by rw [h]; exact BitVec.getLsbD_zero
    simpa [hi] using hb
  · intro h
    refine BitVec.eq_of_getLsbD_eq fun i _ => ?_
    cases hm : m.getLsbD i with
    | false => simp [hm]
    | true => simp [h i hm]

theorem mem_pinsOf {m : Byte} {i : Nat} : i ∈ pinsOf m ↔ m.getLsbD i = true := by
  simpa [pinsOf] using fun h => BitVec.lt_of_getLsbD h

theorem pin_eq_high {s : State} {i : Nat} : pin s i = .high ↔ s.dir.getLsbD i = true ∧ s.lvl.getLsbD i = true := by
  cases hd : s.dir.getLsbD i <;> cases hl : s.lvl.getLsbD i <;> simp [pin, hd, hl]

theorem pin_eq_low {s : State} {i : Nat} : pin s i = .low ↔ s.dir.getLsbD i = true ∧ s.lvl.getLsbD i = false := by
  cases hd : s.dir.getLsbD i <;> cases hl : s.lvl.getLsbD i <;> simp [pin, hd, hl]

theorem all_pins_high {m : Byte} {s : State} :
    (pinsOf m).all (fun i => decide (pin s i = .high)) = true ↔ s.dir &&& m = m ∧ s.lvl &&& m = m := by
  simp only [List.all_eq_true, decide_eq_true_eq, mem_pinsOf, pin_eq_high, and_eq_mask_iff, forall_and]

theorem all_pins_low {m : Byte} {s : State} :
    (pinsOf m).all (fun i => decide (pin s i = .low)) = true ↔ s.dir &&& m = m ∧ s.lvl &&& m = 0 := by
  simp only [List.all_eq_true, decide_eq_true_eq, mem_pinsOf, pin_eq_low, and_eq_mask_iff, and_eq_zero_iff, forall_and]

theorem strobe_eq_strobeOn {s : State} {c : Cfg} (h : s.cfg? = some c) : strobe s = strobeOn c.mask s := by
  simp [strobe, h]

/-- STROBE of a mask, read by masks. -/
theorem strobeOn_eq (m : Byte) (s : State) :
    strobeOn m s =
      if m = 0 then .off
      else if s.dir &&& m = m ∧ s.lvl &&& m = m then .one
      else if s.dir &&& m = m ∧ s.lvl &&& m = 0 then .zero
      else .off := by
  simp only [strobeOn, all_pins_high, all_pins_low]

/-- Settles O34: levels that are all 1 and all 0 at once belong to the empty mask alone. -/
theorem strobeByMasks : Obligations.StrobeByMasks := by
  intro s c hc
  rw [strobe_eq_strobeOn hc, strobeOn_eq]
  by_cases hm : c.mask = 0#8
  · simp [hm]
  by_cases hd : s.dir &&& c.mask = c.mask
  · by_cases h1 : s.lvl &&& c.mask = c.mask
    · simp [hm, hd, h1]
    · by_cases h0 : s.lvl &&& c.mask = 0#8
      · simp [hm, Ne.symm hm, hd, h0]
      · simp [hm, hd, h1, h0]
  · simp [hm, hd]

end Sys2Proof.Machine
end

section
/-! What an instruction does to the program index, to the other registers and to the fault record (10_state.md R26, R35, R40). -/

namespace Sys2Proof.Machine

/-- The handler's body writes the counter and the levels only (R121, R122). -/
theorem handlerBody_eq (c : Cfg) (v : Word) (s : State) :
    handlerBody c v s =
      { s with
        cnt := some (if atBoundary s.params.countDir c v then initv s.params.countDir c else countNext s.params.countDir v)
        lvl := if atBoundary s.params.countDir c v then s.lvl ||| c.mask else s.lvl } := by
  unfold handlerBody
  split <;> rfl

/-- A timer event writes PEND and the fault record only (R163). -/
theorem timerEvent_eq (s : State) :
    timerEvent s =
      { s with
        pend := true
        fault := if s.pend && s.tie then FaultSet.insert .overrun s.fault else s.fault } := by
  unfold timerEvent
  split <;> rfl

/-- Settles O23: of the ways an instruction can end, those that leave MPC unadvanced are a stop fault, LOOP's jump, the first half of a
split read and the end of an event. -/
theorem commandsAdvanceTheIndex : Obligations.CommandsAdvanceTheIndex := by
  intro i s t h
  cases i with
  | init x => obtain ⟨c, -, ⟨-, rfl⟩ | ⟨-, rfl⟩⟩ := exec_init_cases h <;> simp [Instr.isCommand, FaultEntry.isStop, initialise]
  | polls =>
    obtain ⟨c, -, ⟨-, rfl⟩ | ⟨v, -, ⟨ha, rfl⟩ | ⟨ha, hm, rfl⟩ | ⟨ha, hm, rfl⟩⟩⟩ := exec_polls_cases h
    · simp [Instr.isCommand, FaultEntry.isStop]
    · simp [Instr.isCommand, decideDuty, ha]
    · simp [Instr.isCommand, ha, hm]
    · simp [Instr.isCommand, decideDuty, hm]
  | polla => obtain ⟨c, -, ⟨-, rfl⟩ | ⟨-, rfl⟩ | ⟨-, rfl⟩⟩ := exec_polla_cases h <;> simp [Instr.isCommand, FaultEntry.isStop]
  | irq => obtain ⟨c, -, ⟨-, rfl⟩ | ⟨v, -, rfl⟩⟩ := exec_irq_cases h <;> simp [Instr.isCommand, handlerBody_eq]
  | tick => rcases exec_tick_cases h with ⟨-, rfl⟩ | ⟨-, -, rfl⟩ | ⟨-, -, rfl⟩ <;> simp [Instr.isCommand, timerEvent_eq]
  | rst | enable | tconf _ | treload _ | tinst | pdir _ | phigh _ | plow _ | loop _ | validate =>
    obtain rfl : t = _ := exec_plain_cases h
    simp [Instr.isCommand, resetPeripherals]

/-- Settles O52: in each way an instruction can end, the registers it is not listed for are as they were. -/
theorem onlyTheListedStepsWrite : Obligations.OnlyTheListedStepsWrite := by
  intro i s t h
  cases i with
  | init x => obtain ⟨c, -, ⟨-, rfl⟩ | ⟨-, rfl⟩⟩ := exec_init_cases h <;> simp [Instr.isCommand, initialise]
  | polls =>
    obtain ⟨c, -, ⟨-, rfl⟩ | ⟨v, -, ⟨-, rfl⟩ | ⟨ha, -, rfl⟩ | ⟨ha, -, rfl⟩⟩⟩ := exec_polls_cases h
    · simp
    · simp [Instr.isCommand, decideDuty]
    · simp [ha]
    · simp [Instr.isCommand, decideDuty, ha]
  | polla => obtain ⟨c, -, ⟨-, rfl⟩ | ⟨-, rfl⟩ | ⟨-, rfl⟩⟩ := exec_polla_cases h <;> simp [Instr.isCommand]
  | irq => obtain ⟨c, -, ⟨-, rfl⟩ | ⟨v, -, rfl⟩⟩ := exec_irq_cases h <;> simp [handlerBody_eq]
  | tick => rcases exec_tick_cases h with ⟨-, rfl⟩ | ⟨-, -, rfl⟩ | ⟨-, -, rfl⟩ <;> simp [timerEvent_eq]
  | rst | enable | tconf _ | treload _ | tinst | pdir _ | phigh _ | plow _ | loop _ | validate =>
    obtain rfl : t = _ := exec_plain_cases h
    simp [Instr.isCommand, resetPeripherals]

/-- No instruction removes a pair from FAULT (R35). -/
theorem exec_fault_subset {i : Instr} {s t : State} (h : exec i s = .next t) : s.fault ⊆ t.fault := by
  intro e he
  cases i with
  | init x => obtain ⟨c, -, ⟨-, rfl⟩ | ⟨-, rfl⟩⟩ := exec_init_cases h <;> simp [he, initialise]
  | polls =>
    obtain ⟨c, -, ⟨-, rfl⟩ | ⟨v, -, ⟨-, rfl⟩ | ⟨-, -, rfl⟩ | ⟨-, -, rfl⟩⟩⟩ := exec_polls_cases h <;> simp [he, decideDuty]
  | polla => obtain ⟨c, -, ⟨-, rfl⟩ | ⟨-, rfl⟩ | ⟨-, rfl⟩⟩ := exec_polla_cases h <;> simp [he]
  | irq => obtain ⟨c, -, ⟨-, rfl⟩ | ⟨v, -, rfl⟩⟩ := exec_irq_cases h <;> simp [he, handlerBody_eq]
  | tick =>
    rcases exec_tick_cases h with ⟨-, rfl⟩ | ⟨-, -, rfl⟩ | ⟨-, -, rfl⟩
    · simp [he]
    · rw [timerEvent_eq]
      dsimp only
      split <;> simp [he]
    · exact he
  | rst | enable | tconf _ | treload _ | tinst | pdir _ | phigh _ | plow _ | loop _ | validate =>
    obtain rfl : t = _ := exec_plain_cases h
    exact he

theorem agentStep_fault_subset {a : Agent} {s t : State} (h : agentStep a s = .next t) : s.fault ⊆ t.fault := by
  rcases agentStep_cases h with ⟨f, rfl⟩ | ⟨i, -, -, hx⟩
  · intro e he
    simp [he]
  · exact exec_fault_subset hx

/-- Settles O51: picking the agent keeps the record, and its step only adds to it. -/
theorem faultRecordIsSticky : Obligations.FaultRecordIsSticky := by
  refine ⟨addsFault_recordFault, ?_, State.relaunch_fault⟩
  intro s t e h he
  rcases step_cases h with ⟨-, hx⟩ | ⟨c, a, u, -, hp, hx⟩
  · exact exec_fault_subset hx he
  · obtain ⟨-, l, n, rfl⟩ := pick_some hp
    exact agentStep_fault_subset hx he

end Sys2Proof.Machine
end

section
/-! The invariant along every step and every run (10_state.md R22 to R32, 60_exceptions.md R210). -/

namespace Sys2Proof.Machine

/-- The repeat count of an accepted configuration is not 0 (R105). -/
theorem N_ne_zero_of_cfg? {s : State} {c : Cfg} (h : s.cfg? = some c) : c.N ≠ 0 := by
  obtain ⟨-, d, -, hd⟩ := cfg?_eq_some.mp h
  obtain ⟨hk, rfl, -⟩ := validate_eq_accept.mp hd
  obtain ⟨hN, -⟩ := eRepeatRange_eq_false.mp hk.repeatRange
  rw [← hk.cfgOf_N_toNat] at hN
  intro h0
  simp [h0] at hN

theorem cfgSel_toNat_le_five (c : Cfg) : c.sel.toNat ≤ 5 := by
  cases h : c.presc <;> simp [Cfg.sel, h, Prescaler.code]

namespace Invariant

/-! ### What each update of the state asks for -/

variable {s : State}

theorem recordFault (hi : Invariant s) (e : FaultEntry) : Invariant (s.recordFault e) :=
  { hi with faultCanonical := FaultSet.wf_insert e hi.faultCanonical }

/-- A command that ends with MPC advanced leaves no split read under way (R25, R26). -/
theorem advance (hi : Invariant s) (hmpc : s.mpc.toNat < 256) (hm : s.msub = false) : Invariant s.advance :=
  { hi with
    mpcMax := by
      show (s.mpc + 1).toNat ≤ 256
      bv_omega
    splitHeld := fun h => absurd (hm.symm.trans h) (by decide) }

/-- A counter value in the range of R22 may be written once the machine exists. -/
theorem writeCnt {c : Cfg} {v : Word} (hi : Invariant s) (hc : s.cfg? = some c) (hv : cntInRange s.params.countDir c v = true) :
    Invariant { s with cnt := some v } :=
  { hi with
    unbuilt := fun hn => by
      obtain ⟨-, d, hd, -⟩ := cfg?_eq_some.mp hc
      exact absurd (hn.symm.trans hd) (by simp)
    cntRange := fun c' v' hc' hv' => by
      cases hc.symm.trans hc'
      cases hv'
      exact hv
    splitHeld := fun h => ⟨by simp, (hi.splitHeld h).2⟩ }

/-- A new timer period begins at count 0, with any reload value (R141, R142, R160, R161). -/
theorem restartTimer {x : Sel} (hi : Invariant s) (hx : x.toNat ≤ 5) (v : Byte) :
    Invariant { s with tsel := x, trld := v, tcnt := 0 } :=
  { hi with
    tselLegal := hx
    tcntBelow := fun h => by
      show 0 < v.toNat
      bv_omega }

/-! ### The steps -/

theorem buildStep (hi : Invariant s) (hv : s.verdict = none) :
    Invariant { s with verdict := some (validate s.params.floorPolicy s.consts) } :=
  { hi with
    verdictTrue := fun _ h => (Option.some.inj h).symm
    unbuilt := fun h => absurd h (by simp)
    cntRange := fun _ _ _ h => absurd ((hi.unbuilt hv).symm.trans h) (by simp) }

/-- During a split read MAIN's next command is POLLS, so any other finds `MSUB` 0 (R25, R126). -/
theorem msub_eq_false (hi : Invariant s) {i : Instr} (hn : nextCommand s = some i) (hp : i ≠ .polls) : s.msub = false := by
  rw [Bool.eq_false_iff]
  intro hm
  obtain ⟨-, -, hw⟩ := hi.splitHeld hm
  exact hp (Option.some.inj (hn.symm.trans (nextCommand_eq_some.mpr ⟨_, hw, rfl⟩)))

theorem mpc_lt (hi : Invariant s) {i : Instr} (hn : nextCommand s = some i) : s.mpc.toNat < 256 := by
  obtain ⟨w, hw, -⟩ := nextCommand_eq_some.mp hn
  exact (progFetch_lt hw).trans_le hi.progMax

theorem handlerBody (hi : Invariant s) {c : Cfg} {v : Word} (hc : s.cfg? = some c) (hv : s.cnt = some v) :
    Invariant (handlerBody c v s) := by
  rcases handlerBody_cases c v s with ⟨-, e⟩ | ⟨hb, e⟩
  · rw [e]
    exact { hi.writeCnt hc (cntInRange_initv (N_ne_zero_of_cfg? hc)) with }
  · rw [e]
    exact hi.writeCnt hc (elapsed_countNext (hi.cntRange c v hc hv) hb).1

/-- A command other than POLLS ends with MPC advanced. -/
theorem advanceCommand (hi : Invariant s) {i : Instr} (hn : nextCommand s = some i) (hp : i ≠ .polls) : Invariant s.advance :=
  hi.advance (hi.mpc_lt hn) (hi.msub_eq_false hn hp)

theorem initialise (hi : Invariant s) {c : Cfg} {x : Sel} (hc : s.cfg? = some c) (hn : nextCommand s = some (.init x)) :
    Invariant (initialise c s) := by
  have hcnt := hi.writeCnt hc (cntInRange_initv (N_ne_zero_of_cfg? hc))
  have htimer := hcnt.restartTimer (cfgSel_toNat_le_five c) c.reload
  exact advanceCommand (i := .init x) { htimer with } hn (by simp)

theorem of_exec_tick (hi : Invariant s) {t : State} (h : exec .tick s = .next t) : Invariant t := by
  rcases exec_tick_cases h with ⟨-, rfl⟩ | ⟨-, -, rfl⟩ | ⟨-, hlt, rfl⟩
  · exact hi.recordFault _
  · have h0 : Invariant { s with tcnt := 0 } := hi.restartTimer hi.tselLegal s.trld
    rcases timerEvent_cases { s with tcnt := 0 } with ⟨-, -, e⟩ | ⟨-, e⟩ <;> rw [e]
    · exact { h0.recordFault .overrun with }
    · exact { h0 with }
  · exact { hi with
      tcntBelow := fun _ => by
        show (s.tcnt + 1).toNat < s.trld.toNat
        bv_omega }

theorem of_exec_polls (hi : Invariant s) {t : State} (hn : nextCommand s = some .polls) (h : exec .polls s = .next t) :
    Invariant t := by
  obtain ⟨c, hc, ⟨-, rfl⟩ | ⟨v, hv, ⟨ha, rfl⟩ | ⟨ha, -, rfl⟩ | ⟨ha, hm, rfl⟩⟩⟩ := exec_polls_cases h
  · exact hi.recordFault _
  · have hd : Invariant { s with pdec := some (dutyReached s.params.countDir c v) } := { hi with }
    exact hd.advance (hi.mpc_lt hn) (hi.atomicNoSplit ha).1
  · obtain ⟨w, hw, hd⟩ := nextCommand_eq_some.mp hn
    exact { hi with
      atomicNoSplit := fun h => absurd (ha.symm.trans h) (by decide)
      splitHeld := fun _ => ⟨by simp [hv], by simp, hw.trans (congrArg some (encode_of_decode hd).symm)⟩ }
  · have hd : Invariant { s with
        pdec := some (dutyReached s.params.countDir c (splitRead v (latchedLow s)))
        msub := false
        choices := choicesAfterLatch s } :=
      { hi with
        atomicNoSplit := fun h => absurd (ha.symm.trans h) (by decide)
        splitHeld := fun h => absurd h (by simp) }
    exact hd.advance (hi.mpc_lt hn) rfl

/-- An instruction keeps the invariant, where a command is the one MAIN fetches. -/
theorem of_exec {t : State} {i : Instr} (hi : Invariant s) (hv : i ≠ .validate) (hn : i.isCommand = true → nextCommand s = some i)
    (h : exec i s = .next t) : Invariant t := by
  cases i with
  | validate => exact absurd rfl hv
  | tick => exact hi.of_exec_tick h
  | polls => exact hi.of_exec_polls (hn rfl) h
  | irq =>
    obtain ⟨c, hc, ⟨-, rfl⟩ | ⟨v, hv, rfl⟩⟩ := exec_irq_cases h
    · exact hi.recordFault _
    · have hp : Invariant s.enterHandler := { hi with }
      exact hp.handlerBody hc hv
  | init x =>
    obtain ⟨c, hc, ⟨-, rfl⟩ | ⟨rfl, rfl⟩⟩ := exec_init_cases h
    · exact hi.recordFault _
    · exact hi.initialise hc (hn rfl)
  | polla =>
    obtain ⟨c, -, ⟨-, rfl⟩ | ⟨-, rfl⟩ | ⟨-, rfl⟩⟩ := exec_polla_cases h
    · exact hi.recordFault _
    · exact advanceCommand (s := s.driveLow c.mask) { hi with } (hn rfl) (by simp)
    · exact hi.advanceCommand (hn rfl) (by simp)
  | loop a =>
    obtain rfl : t = _ := exec_plain_cases h
    have hm := hi.msub_eq_false (hn rfl) (by simp)
    exact { hi with
      mpcMax := by
        show (a.setWidth 9).toNat ≤ 256
        bv_omega
      splitHeld := fun h => absurd (hm.symm.trans h) (by decide) }
  | rst =>
    obtain rfl : t = _ := exec_plain_cases h
    have ht := hi.restartTimer (x := 0) (by decide) 0
    exact advanceCommand { ht with } (hn rfl) (by simp)
  | tconf x =>
    obtain rfl : t = _ := exec_plain_cases h
    obtain ⟨w, -, hd⟩ := nextCommand_eq_some.mp (hn rfl)
    obtain ⟨-, hx, -⟩ := decode_ok hd
    exact advanceCommand (hi.restartTimer (of_decide_eq_true hx) s.trld) (hn rfl) (by simp)
  | treload v =>
    obtain rfl : t = _ := exec_plain_cases h
    exact advanceCommand (hi.restartTimer hi.tselLegal v) (hn rfl) (by simp)
  | enable | tinst | pdir _ | phigh _ | plow _ =>
    obtain rfl : t = _ := exec_plain_cases h
    exact advanceCommand { hi with } (hn rfl) (by simp)

theorem of_agentStep {a : Agent} {t : State} (hi : Invariant s) (h : agentStep a s = .next t) : Invariant t := by
  rcases agentStep_cases h with ⟨e, rfl⟩ | ⟨i, hv, hn, hx⟩
  · exact hi.recordFault e
  · exact hi.of_exec hv hn hx

theorem of_run {t : State} {ms : List Move} (hi : Invariant s) (h : Run s ms t) : Invariant t := by
  induction h with
  | stop s => exact hi
  | move h _ ih =>
    obtain ⟨-, -, hx⟩ := h
    exact ih (hi.of_agentStep hx)

/-- A launch state meets the invariant (R230). -/
theorem of_isLaunch (h : IsLaunch s) : Invariant s := by
  obtain ⟨hs, hc⟩ := h
  obtain ⟨c, hc⟩ := Option.isSome_iff_exists.mp hc
  obtain ⟨⟨-, hlen⟩, d, hd, hok⟩ := cfg?_eq_some.mp hc
  rw [hs]
  exact
    { verdictTrue := fun v hv => (Option.some.inj (hv.symm.trans hd)).trans hok.symm
      unbuilt := fun _ => rfl
      cntRange := fun _ _ _ hv => absurd hv (by simp)
      mpcMax := by simp
      progMax := hlen
      tselLegal := by simp
      tcntBelow := fun h => absurd rfl h
      faultCanonical := List.Pairwise.nil
      atomicNoSplit := fun _ => ⟨rfl, rfl⟩
      splitHeld := fun h => absurd h (by simp) }

end Invariant

/-- Settles O54: the step is the build's or a picked agent's, and each keeps the invariant. -/
theorem stepKeepsTheInvariant : Obligations.StepKeepsTheInvariant := by
  intro s t hi h
  rcases step_cases h with ⟨hv, hx⟩ | ⟨c, a, u, -, hp, hx⟩
  · cases hx
    exact hi.buildStep hv
  · obtain ⟨-, l, n, rfl⟩ := pick_some hp
    have hu : Invariant { s with sched := l, choices := n } := { hi with }
    exact hu.of_agentStep hx

/-- Settles O55, by induction on the run from the launch. -/
theorem reachableStatesMeetTheInvariant : Obligations.ReachableStatesMeetTheInvariant := by
  rintro t ⟨s, ms, hs, hr⟩
  exact (Invariant.of_isLaunch hs).of_run hr

end Sys2Proof.Machine
end

section
/-! The program store and the other launch parameters (20_memory.md R50 to R52, 30_encoding.md R78). -/

namespace Sys2Proof.Asm

/-- A text assembles only to a program the store can hold (R50, R78). -/
theorem assemble_length {src : List String} {ws : List Word} (h : assemble src = .ok ws) : 1 ≤ ws.length ∧ ws.length ≤ 256 := by
  unfold assemble at h
  repeat' split at h
  all_goals cases h
  -- the way out that gives the words, past both length tests
  exact ⟨by omega, ‹_›⟩

end Sys2Proof.Asm

namespace Sys2Proof.Machine

/-! ### What a step keeps -/

theorem agentStep_sameLaunch {a : Agent} {s t : State} (h : agentStep a s = .next t) : SameLaunch s t := by
  rcases agentStep_cases h with ⟨e, rfl⟩ | ⟨i, hi, -, hx⟩
  · exact sameLaunch_recordFault s e
  · exact exec_sameLaunch hx hi

/-- After the build a step keeps the launch's parameters (R51). -/
theorem step_sameLaunch {s t : State} (hv : s.verdict ≠ none) (h : step s = .next t) : SameLaunch s t := by
  rcases step_cases h with ⟨hn, -⟩ | ⟨c, a, u, -, hp, hx⟩
  · exact absurd hn hv
  · obtain ⟨-, l, n, rfl⟩ := pick_some hp
    have hl : SameLaunch { s with sched := l, choices := n } t := agentStep_sameLaunch hx
    exact hl

/-- Settles O58: the build's step writes the verdict alone, where there is no configuration yet; an agent's step keeps the launch. -/
theorem launchParametersAreFixed : Obligations.LaunchParametersAreFixed := by
  intro s t h
  by_cases hv : s.verdict = none
  · rw [step_unbuilt hv, exec_validate] at h
    cases h
    refine ⟨rfl, rfl, rfl, fun hc => ?_⟩
    obtain ⟨c, d, hd⟩ := cfg?_isSome_verdict hc
    exact absurd (hv.symm.trans hd) (by simp)
  · obtain ⟨hparams, hconsts, -, hprog⟩ := step_sameLaunch hv h
    exact ⟨hprog, hparams, hconsts, fun _ => (step_sameLaunch hv h).cfg?⟩

/-! ### Where a step is refused -/

theorem step_quiescent {s : State} (hc : s.cfg?.isSome = true) (hp : pick s = none) : step s = .fault .quiescent := by
  obtain ⟨c, d, hv⟩ := cfg?_isSome_verdict hc
  simp [step, machineStep, hv, withCfg_isSome hc, hp]

/-- A machine that exists is never refused: an agent takes its step, or the state is quiescent (R200, R210). -/
theorem step_ne_refused {s : State} (hc : s.cfg?.isSome = true) (r : Refusal) : step s ≠ .refused r := by
  cases hp : pick s with
  | none => simp [step_quiescent hc hp]
  | some p =>
    obtain ⟨a, u⟩ := p
    obtain ⟨-, l, n, rfl⟩ := pick_some hp
    obtain ⟨t, ht⟩ := agentStep_completes a (s := { s with sched := l, choices := n }) hc
    simp [step_picked hc hp, ht]

/-- With an accepted configuration, the one reason for there being no machine is the program (R50). -/
theorem step_refused_noProgram {s : State} {c : Cfg} (ha : s.accepted? = some c) :
    step s = .refused .noProgram ↔ s.loaded = false := by
  cases hl : s.loaded with
  | true =>
    have hc : s.cfg? = some c := by simp [State.cfg?, hl, ha]
    simpa using step_ne_refused (cfg?_isSome hc) .noProgram
  | false =>
    have hc : s.cfg? = none := by simp [State.cfg?, hl]
    obtain ⟨d, hv, -⟩ := accepted?_eq_some.mp ha
    simp [step_absent hc (by simp [hv]), State.absence, ha]

/-- Settles O15: an agent steps only where a program is loaded, and keeps it; without one an accepted configuration's step is
refused, and only then; and the assembler gives a program that can be loaded. -/
theorem programLengthIsLegal : Obligations.ProgramLengthIsLegal := by
  refine ⟨?_, ?_, fun _ _ => Asm.assemble_length⟩
  · intro a s t h
    obtain ⟨-, -, -, hprog⟩ := agentStep_sameLaunch h
    obtain ⟨c, hc⟩ := Option.isSome_iff_exists.mp (agentStep_cfg h)
    rw [hprog]
    exact (cfg?_eq_some.mp hc).1
  · intro s c d hv hok
    rw [step_refused_noProgram (accepted?_eq_some.mpr ⟨d, hv, hok⟩), ← Bool.not_eq_true, loaded_iff]
    omega

/-! ### The fetch -/

/-- Settles O25: below PLEN the fetch is the list's lookup; at any other index MAIN's step raises the stop fault. -/
theorem fetchStopsPastTheEnd : Obligations.FetchStopsPastTheEnd := by
  refine ⟨fun s i h => List.getElem?_eq_getElem h, ?_⟩
  intro s hc h
  exact ⟨_, mainStep_range hc h, addsFault_recordFault s _, by simp [FaultEntry.isStop], onlyChanges_recordFault s _⟩

end Sys2Proof.Machine
end

section
/-! The encoder and Decode (30_encoding.md R70 to R75): that they agree both ways, and the words that do not decode. -/

namespace Sys2Proof

open Laws.Format (opField_append immField_append selHigh_setWidth)

/-! ### Decode of an encoding -/

theorem opField_encode (i : Instr) : opField (encode i) = i.opcode := opField_append _ _

theorem immField_encode (i : Instr) : immField (encode i) = i.operand := immField_append _ _

theorem selField_setWidth : ∀ s : Sel, selField (s.setWidth 8) = s := by decide

theorem decodeSel_setWidth {lo : Nat} {s : Sel} (h : lo ≤ s.toNat ∧ s.toNat ≤ 5) (mk : Sel → Instr) :
    decodeSel lo (s.setWidth 8) mk = .ok (mk s) := by
  simp [decodeSel, selHigh_setWidth, selField_setWidth, h]

/-- Decode reads a well-formed command back, its operand by the command's form. -/
theorem decode_encode {i : Instr} (hw : i.wf = true) (hc : i.isCommand = true) : decode (encode i) = .ok i := by
  unfold decode
  rw [opField_encode, immField_encode]
  cases i with
  | rst | enable | tinst | polls | polla => rfl
  | init s | tconf s => exact decodeSel_setWidth (by simpa [Instr.wf] using hw) _
  | treload v => exact if_pos (of_decide_eq_true hw)
  | pdir _ | phigh _ | plow _ | loop _ => rfl
  | tick | irq | validate => cases hc

/-- The codes of TICK, IRQ and VALIDATE (R75). -/
def eventCodes : List Word := [0xE000#16, 0xE100#16, 0xF000#16]

theorem mem_eventCodes {w : Word} : w ∈ eventCodes ↔ w = 0xE000#16 ∨ w = 0xE100#16 ∨ w = 0xF000#16 := by
  simp [eventCodes]

/-- An event code is an event's OP with IMM = 0. -/
theorem mem_eventCodes_iff_fields {w : Word} : w ∈ eventCodes ↔ (opField w).toNat ∈ [0xE0, 0xE1, 0xF0] ∧ immField w = 0 := by
  constructor
  · intro h
    rcases mem_eventCodes.mp h with rfl | rfl | rfl <;> decide
  · rintro ⟨hop, himm⟩
    have hword : ∀ b : Byte, (opField w).toNat = b.toNat → w = b ++ 0#8 := fun b hb => by
      rw [← opField_append_immField w, himm, BitVec.eq_of_toNat_eq hb]
      rfl
    simp only [List.mem_cons, List.not_mem_nil, or_false] at hop
    exact mem_eventCodes.mpr (hop.imp (hword 0xE0) (Or.imp (hword 0xE1) (hword 0xF0)))

theorem decode_eventCode {w : Word} (h : w ∈ eventCodes) : decode w = .error .eventCode := by
  rcases mem_eventCodes.mp h with rfl | rfl | rfl <;> rfl

theorem decodeCode_of_not_mem {w : Word} (h : w ∉ eventCodes) : decodeCode w = decode w := by
  simp only [mem_eventCodes, not_or] at h
  simp [decodeCode, decodeEvent, h]

/-- Only what Decode refuses can be read as an event code. -/
theorem decodeCode_of_decode {w : Word} {i : Instr} (h : decode w = .ok i) : decodeCode w = .ok i := by
  have hne : w ∉ eventCodes := fun he => by simp [decode_eventCode he] at h
  rw [decodeCode_of_not_mem hne, h]

theorem decode_ne_ok_of_event {j : Instr} (hj : j.isCommand = false) (w : Word) : decode w ≠ .ok j := by
  intro h
  obtain ⟨hc, -⟩ := decode_ok h
  simp [hj] at hc

/-- Settles O1: a command is read back by Decode already; the three events have their own codes. -/
theorem decodeInvertsEncode : Obligations.DecodeInvertsEncode := by
  intro i hw
  cases hc : i.isCommand with
  | true => exact ⟨decodeCode_of_decode (decode_encode hw hc), fun _ => decode_encode hw hc⟩
  | false =>
    refine ⟨?_, nofun⟩
    cases i with
    | tick | irq | validate => rfl
    | _ => cases hc

/-- Settles O2, by what Decode can answer. -/
theorem encodeInvertsDecode : Obligations.EncodeInvertsDecode := by
  intro w i h
  obtain ⟨hc, hw, -⟩ := decode_ok h
  exact ⟨encode_of_decode h, hw, hc⟩

/-! ### The words that do not decode -/

theorem decodeZ_error_iff {imm : Byte} {i : Instr} : (∃ e, decodeZ imm i = .error e) ↔ imm ≠ 0 := by
  unfold decodeZ
  split
  next h => simp [h]
  next h => simpa using h

/-- The selector has three bits, so those outside `lo` to 5 are the ones below `lo`, and 6 and 7. -/
theorem decodeSel_error_iff {lo : Nat} {imm : Byte} {mk : Sel → Instr} :
    (∃ e, decodeSel lo imm mk = .error e) ↔
      selHigh imm ≠ 0 ∨ (selField imm).toNat < lo ∨ (selField imm).toNat = 6 ∨ (selField imm).toNat = 7 := by
  have hlt := (selField imm).isLt
  unfold decodeSel
  split
  next h => exact iff_of_true ⟨_, rfl⟩ (.inl h)
  next h =>
    split
    next hr => exact iff_of_false (by simp) (not_or.mpr ⟨h, by omega⟩)
    next hr => exact iff_of_true ⟨_, rfl⟩ (.inr (by omega))

theorem decodeReload_error_iff {imm : Byte} : (∃ e, decodeReload imm = .error e) ↔ imm = 0 := by
  unfold decodeReload
  split
  next h => simpa using h
  next h => simpa using h

theorem decodeEventOp_error (imm : Byte) : ∃ e, decodeEventOp imm = .error e := by
  cases h : decodeEventOp imm with
  | error e => exact ⟨e, rfl⟩
  | ok j => exact absurd h (decodeEventOp_ne_ok imm j)

theorem selField_immField (w : Word) : selField (immField w) = w.extractLsb' 0 3 :=
  BitVec.extractLsb'_extractLsb'_of_le (by decide)

theorem selHigh_immField (w : Word) : selHigh (immField w) = w.extractLsb' 3 5 :=
  BitVec.extractLsb'_extractLsb'_of_le (by decide)

/-- The ILLEGAL words in the fields of the format, item by item as R74 lists them. -/
theorem decode_error_iff (w : Word) : (∃ e, decode w = .error e) ↔
    ((opField w).toNat ∉
        [0x01, 0x02, 0x03, 0x10, 0x11, 0x12, 0x20, 0x21, 0x22, 0x30, 0x31, 0x40, 0xE0, 0xE1, 0xF0] ∨
      ((opField w).toNat ∈ [0x01, 0x03, 0x12, 0x30, 0x31, 0xE0, 0xE1, 0xF0] ∧ immField w ≠ 0) ∨
      ((opField w).toNat ∈ [0x02, 0x10] ∧ selHigh (immField w) ≠ 0) ∨
      ((opField w).toNat = 0x02 ∧ (selField (immField w)).toNat ∈ [0, 6, 7]) ∨
      ((opField w).toNat = 0x10 ∧ (selField (immField w)).toNat ∈ [6, 7]) ∨
      ((opField w).toNat = 0x11 ∧ immField w = 0) ∨
      w ∈ eventCodes) := by
  rw [mem_eventCodes_iff_fields]
  unfold decode
  dsimp only
  split
  -- the forms of R71 in turn: Z, SEL, U8, then MASK and TGT; the event codes; an OP of no row
  case h_1 h | h_3 h | h_6 h | h_10 h | h_11 h => simp [decodeZ_error_iff, h]
  case h_2 h | h_4 h => simp [decodeSel_error_iff, h]
  case h_5 h => simp [decodeReload_error_iff, h]
  case h_7 h | h_8 h | h_9 h | h_12 h => simp [h]
  case h_13 h | h_14 h | h_15 h => simp [decodeEventOp_error, h, ne_or_eq]
  case h_16 => exact iff_of_true ⟨_, rfl⟩ (.inl (by simp_all))

/-- Settles O3: the list is Decode's own case analysis, and MAIN's step on such a word is the stop fault alone. -/
theorem illegalWordsAreTheListed : Obligations.IllegalWordsAreTheListed := by
  refine ⟨fun w => ?_, ?_, .unassigned 0, rfl⟩
  · rw [← selField_immField, ← selHigh_immField]
    exact decode_error_iff w
  · intro s w e hc hw hd
    exact ⟨_, Machine.mainStep_illegal hc hw hd, Machine.addsFault_recordFault s _, by simp [Machine.FaultEntry.isStop],
      Machine.onlyChanges_recordFault s _⟩

/-- Settles O4: a word with an event's OP never decodes, and with a nonzero IMM it is not the event's code either. -/
theorem eventCodesAreNoCommands : Obligations.EventCodesAreNoCommands := by
  refine ⟨rfl, rfl, rfl, fun w hw => ⟨_, decode_eventCode hw⟩, fun w => ?_, fun w hop himm => ?_⟩
  · exact ⟨decode_ne_ok_of_event rfl w, decode_ne_ok_of_event rfl w, decode_ne_ok_of_event rfl w⟩
  · have hne : w ∉ eventCodes := fun he => himm (mem_eventCodes_iff_fields.mp he).2
    have hz : (opField w).toNat ∈ [0x01, 0x03, 0x12, 0x30, 0x31, 0xE0, 0xE1, 0xF0] :=
      List.mem_append_right [0x01, 0x03, 0x12, 0x30, 0x31] hop
    rw [decodeCode_of_not_mem hne]
    exact (decode_error_iff w).mpr (.inr (.inl ⟨hz, himm⟩))

/-- Settles O5, by running Decode on each word. -/
theorem sampleWordsDecode : Obligations.SampleWordsDecode := by
  unfold Obligations.SampleWordsDecode
  decide

end Sys2Proof
end

section
/-! What the assembler emits (30_encoding.md R78, R79). -/

namespace Sys2Proof.Asm

/-! ### A command's operand read back -/

theorem selOf_toNat {s : Sel} (h : s.toNat ≤ 5) : selOf (.num s.toNat) = .ok s := by
  simp [selOf, h]

theorem byteOf_toNat (b : Byte) : byteOf (.num b.toNat) = .ok b := by
  simp [byteOf, Nat.le_of_lt_succ b.isLt]

/-- The line that writes a well-formed command stands for that command alone (R78). -/
theorem instrsOf_lineOf {i : Instr} (labels : List (List Char × Nat)) (start : Nat) (hw : i.wf = true)
    (hc : i.isCommand = true) : instrsOf labels start (lineOf i) = .ok [i] := by
  cases i with
  | rst | enable | tinst | polls | polla => rfl
  | init s | tconf s =>
    have hs : s.toNat ≤ 5 := by simp_all [Instr.wf]
    have hbyte : s.toNat % 256 = s.toNat := Nat.mod_eq_of_lt (by omega)
    simp [instrsOf, lineOf, Instr.mnemonic, Instr.form, Instr.operand, hbyte, selOf_toNat hs, Except.map]
  | treload v | pdir v | phigh v | plow v | loop v =>
    simp [instrsOf, lineOf, Instr.mnemonic, Instr.form, Instr.operand, maskOf, targetOf, byteOf_toNat, Except.map]
  | tick | irq | validate => cases hc

/-- Settles O6: a command's line stands for the command, and its word is the command's code. -/
theorem assemblerEmitsTheEncoding : Obligations.AssemblerEmitsTheEncoding := by
  refine ⟨fun i labels start hw hc => ?_, fun p => ?_⟩
  · simp [emit, instrsOf_lineOf labels start hw hc]
  · cases p <;> exact ⟨rfl, rfl⟩

/-! ### The pseudo-instructions -/

/-- The operand lies in the low byte of the code (R70). -/
theorem encode_eq_or (i : Instr) : encode i = (i.opcode ++ 0#8) ||| i.operand.setWidth 16 := by
  have hlow : i.operand.setWidth 16 = 0#8 ++ i.operand := BitVec.setWidth_eq_append (by decide)
  rw [hlow, BitVec.or_append, BitVec.or_zero, BitVec.zero_or, encode]

theorem encode_init (s : Sel) : encode (.init s) = 0x0200#16 ||| s.setWidth 16 := by
  have himm : (s.setWidth 8).setWidth 16 = s.setWidth 16 := BitVec.setWidth_setWidth (by decide)
  simp [encode_eq_or, Instr.opcode, Instr.operand, himm]

theorem encode_loop_ofNat {n : Nat} (h : n ≤ 255) : encode (.loop (BitVec.ofNat 8 n)) = 0x4000#16 ||| BitVec.ofNat 16 n := by
  have himm : (BitVec.ofNat 8 n).setWidth 16 = BitVec.ofNat 16 n := BitVec.setWidth_ofNat_of_le_of_lt (by decide) (by omega)
  simp [encode_eq_or, Instr.opcode, Instr.operand, himm]

/-- Settles O7: POLL has no operand; BOOT's selector and SPIN's own start are the operands of INIT and LOOP. -/
theorem pseudoInstructionsExpand : Obligations.PseudoInstructionsExpand := by
  intro start h s
  refine ⟨rfl, ?_, ?_⟩
  · simp only [Pseudo.expand, List.map_cons, encode_init]
    rfl
  · simp only [Pseudo.expand, List.map_cons, encode_loop_ofNat h]
    rfl

end Sys2Proof.Asm
end

section
/-! The validator (40_validator.md R100 to R115): what each bit of `DIAG` reports, what an acceptance holds, the messages, and that
rejected constants have no machine. -/

namespace Sys2Proof

open Machine (diag_validate cyclesPerTick cyclesPerPeriod cyclesPerPulse)

/-! ### The bits of `DIAG` -/

/-- The check that each bit of `DIAG` reports (R108). -/
def diagCheck (p : FloorPolicy) (k : Consts) : Nat → Bool
  | 0 => ePrescaler k
  | 1 => eFactorization k
  | 2 => eReloadRange p k
  | 3 => eRepeatRange k
  | 4 => eDutyRange k
  | 5 => eFuse k
  | 6 => eOscRange k
  | 7 => wReloadLow p k
  | _ => false

theorem getLsbD_diagBit (b : Bool) (m : Byte) (i : Nat) : (diagBit b m).getLsbD i = (b && m.getLsbD i) := by
  cases b <;> simp [diagBit]

/-- The eight masks are disjoint, so a bit of `DIAG` is its own check's outcome (R108). -/
theorem getLsbD_diagOf (p : FloorPolicy) (k : Consts) (i : Nat) : (diagOf p k).getLsbD i = diagCheck p k i := by
  match i with
  | 0 | 1 | 2 | 3 | 4 | 5 | 6 | 7 =>
    simp only [diagOf, BitVec.getLsbD_or, getLsbD_diagBit]
    simp [diagCheck]
  | i + 8 => exact BitVec.getLsbD_of_ge _ _ (Nat.le_add_left 8 i)

/-- Settles O9: each bit is its own check's outcome, and each check is the range or the set of its rule. -/
theorem diagReportsEveryCheck : Obligations.DiagReportsEveryCheck := by
  intro p k
  simp only [getLsbD_diagOf, diagCheck]
  refine ⟨?_, ?_, ?_, ?_, ?_, ?_, ?_, ?_, rfl, ?_⟩
  · simp [ePrescaler]
  · simp [eFactorization]
  · simp [eReloadRange]
  · simp [eReloadRange]
  · simp [eRepeatRange]
  · rw [← eDutyRange_eq_false, Bool.not_eq_false]
  · simp [eFuse]
  · simp [eOscRange]
  · simp [wReloadLow]

/-! ### When VALIDATE rejects -/

theorem errorFree_iff_diagCheck (p : FloorPolicy) (k : Consts) : ErrorFree p k ↔ ∀ b < 7, diagCheck p k b = false := by
  constructor
  · intro h b hb
    interval_cases b
    exacts [h.prescaler, h.factorization, h.reloadRange, h.repeatRange, h.dutyRange, h.fuse, h.oscRange]
  · intro h
    exact ⟨h 0 (by decide), h 1 (by decide), h 2 (by decide), h 3 (by decide), h 4 (by decide), h 5 (by decide),
      h 6 (by decide)⟩

/-- An error bit of `DIAG` is set exactly when some error's check failed (R108). -/
theorem exists_errorBit_iff (p : FloorPolicy) (k : Consts) :
    (∃ b, b < 7 ∧ (diagOf p k).getLsbD b = true) ↔ ¬ ErrorFree p k := by
  simp [getLsbD_diagOf, errorFree_iff_diagCheck]

/-- VALIDATE rejects exactly the constants with an error, and answers `DIAG` (R109). -/
theorem validate_eq_reject {p : FloorPolicy} {k : Consts} {d : Byte} :
    validate p k = .reject d ↔ ¬ ErrorFree p k ∧ d = diagOf p k := by
  unfold validate
  split
  next h => simp [(diagOf_and_errorMask_eq_zero p k).mp h]
  next h => simp [mt (diagOf_and_errorMask_eq_zero p k).mpr h, eq_comm]

theorem isInvalidTimingConfiguration_validate (p : FloorPolicy) (k : Consts) :
    (validate p k).isInvalidTimingConfiguration = true ↔ ¬ ErrorFree p k := by
  cases hv : validate p k with
  | accept c d => simp [Verdict.isInvalidTimingConfiguration, (validate_eq_accept.mp hv).1]
  | reject d => simp [Verdict.isInvalidTimingConfiguration, (validate_eq_reject.mp hv).1]

/-! ### The prescalers and the fuse dividers -/

theorem Prescaler.ofFactor_value (q : Prescaler) : Prescaler.ofFactor q.value = some q := by
  cases q <;> rfl

theorem Prescaler.ofCode_code (q : Prescaler) : Prescaler.ofCode q.code = some q := by
  cases q <;> rfl

theorem Fuse.ofFactor_value (f : Fuse) : Fuse.ofFactor f.value = some f := by
  cases f <;> rfl

/-- The selector is the code of the one prescaler with that division factor (R76). -/
theorem Cfg.sel_eq_code {c : Cfg} {q : Prescaler} (h : c.presc.value = q.value) : c.sel = q.code := by
  have hq : some c.presc = some q := by rw [← c.presc.ofFactor_value, h, q.ofFactor_value]
  exact congrArg Prescaler.code (Option.some.inj hq)

theorem ePrescaler_eq_false {k : Consts} : ePrescaler k = false ↔ ∃ q : Prescaler, k.presc = q.value := by
  constructor
  · intro h
    simp only [ePrescaler, Bool.not_eq_false', List.contains_iff_mem, List.mem_cons, List.not_mem_nil, or_false] at h
    rcases h with h | h | h | h | h
    exacts [⟨.p1, h⟩, ⟨.p8, h⟩, ⟨.p64, h⟩, ⟨.p256, h⟩, ⟨.p1024, h⟩]
  · rintro ⟨q, hq⟩
    cases q <;> simp [ePrescaler, hq, Prescaler.value]

theorem eFuse_eq_false {k : Consts} : eFuse k = false ↔ ∃ f : Fuse, k.fuse = f.value := by
  constructor
  · intro h
    simp only [eFuse, Bool.not_eq_false', List.contains_iff_mem, List.mem_cons, List.not_mem_nil, or_false] at h
    rcases h with h | h
    exacts [⟨.f1, h⟩, ⟨.f8, h⟩]
  · rintro ⟨f, hf⟩
    cases f <;> simp [eFuse, hf, Fuse.value]

/-! ### What constants without an error are, and the configuration made of them -/

theorem eFactorization_eq_false {k : Consts} : eFactorization k = false ↔ k.osc = k.fuse * k.presc * k.reload * k.N := by
  simp [eFactorization]

theorem eOscRange_eq_false {k : Consts} : eOscRange k = false ↔ k.osc ≤ 4294967295 := by
  simp [eOscRange]

/-- Under either policy a reload value that passes fits a byte (R104). -/
theorem reload_le_of_eReloadRange {p : FloorPolicy} {k : Consts} (h : eReloadRange p k = false) : k.reload ≤ 255 := by
  cases p <;> simp_all [eReloadRange]

theorem eReloadRange_reject_eq_false {k : Consts} : eReloadRange .reject k = false ↔ 32 ≤ k.reload ∧ k.reload ≤ 255 := by
  simp [eReloadRange]

namespace ErrorFree

variable {p : FloorPolicy} {k : Consts}

theorem cfgOf_osc_toNat (h : ErrorFree p k) : (cfgOf k).osc.toNat = k.osc := by
  have hosc := eOscRange_eq_false.mp h.oscRange
  exact Nat.mod_eq_of_lt (by omega)

theorem cfgOf_reload_toNat (h : ErrorFree p k) : (cfgOf k).reload.toNat = k.reload := by
  have hreload := reload_le_of_eReloadRange h.reloadRange
  exact Nat.mod_eq_of_lt (by omega)

theorem cfgOf_presc_value (h : ErrorFree p k) : (cfgOf k).presc.value = k.presc := by
  obtain ⟨q, hq⟩ := ePrescaler_eq_false.mp h.prescaler
  simp [cfgOf, hq, Prescaler.ofFactor_value]

theorem cfgOf_fuse_value (h : ErrorFree p k) : (cfgOf k).fuse.value = k.fuse := by
  obtain ⟨f, hf⟩ := eFuse_eq_false.mp h.fuse
  simp [cfgOf, hf, Fuse.ofFactor_value]

/-- Without an error the warning is the reload value below 32, under either policy (R104). -/
theorem wReloadLow_eq_true (h : ErrorFree p k) : wReloadLow p k = true ↔ 1 ≤ k.reload ∧ k.reload ≤ 31 := by
  cases p with
  | reject =>
    obtain ⟨hfloor, -⟩ := eReloadRange_reject_eq_false.mp h.reloadRange
    exact iff_of_false (by simp [wReloadLow]) (by omega)
  | warn => simp [wReloadLow]

end ErrorFree

/-- Settles O10: an error bit is an error, and the configuration made of constants without one holds them whole. -/
theorem validateAcceptsExactly : Obligations.ValidateAcceptsExactly := by
  intro p k
  rw [exists_errorBit_iff]
  refine ⟨?_, isInvalidTimingConfiguration_validate p k, ?_⟩
  · simp [validate_eq_reject]
  · intro c d h
    obtain ⟨hk, rfl, hd⟩ := validate_eq_accept.mp h
    have hpresc := hk.cfgOf_presc_value
    exact ⟨hd, hk.cfgOf_osc_toNat, hk.cfgOf_fuse_value, hpresc, hk.cfgOf_reload_toNat, hk.cfgOf_N_toNat, hk.cfgOf_D_toNat, rfl,
      Prescaler.ofCode_code _,
      fun h => Cfg.sel_eq_code (q := .p1) (hpresc.trans h), fun h => Cfg.sel_eq_code (q := .p8) (hpresc.trans h),
      fun h => Cfg.sel_eq_code (q := .p64) (hpresc.trans h), fun h => Cfg.sel_eq_code (q := .p256) (hpresc.trans h),
      fun h => Cfg.sel_eq_code (q := .p1024) (hpresc.trans h)⟩

/-- Settles O11: the configuration holds constants that factor, so its cycle counts are their products. -/
theorem acceptedConfigurationFactors : Obligations.AcceptedConfigurationFactors := by
  intro p k c d h
  obtain ⟨hk, rfl, -⟩ := validate_eq_accept.mp h
  obtain ⟨-, hNmax⟩ := eRepeatRange_eq_false.mp hk.repeatRange
  obtain ⟨hDmin, hDN⟩ := eDutyRange_eq_false.mp hk.dutyRange
  have hN := hk.cfgOf_N_toNat
  have hD := hk.cfgOf_D_toNat
  have hfactors : cyclesPerPulse (cfgOf k) = (cfgOf k).osc.toNat := by
    rw [cyclesPerPulse, cyclesPerPeriod, cyclesPerTick]
    rw [hk.cfgOf_fuse_value, hk.cfgOf_presc_value, hk.cfgOf_reload_toNat, hN, hk.cfgOf_osc_toNat]
    exact (eFactorization_eq_false.mp hk.factorization).symm
  exact ⟨by omega, by omega, by omega, by omega, hfactors, rfl, hfactors⟩

/-! ### The messages -/

theorem diagMessage_injOn : ∀ a < 8, ∀ b < 8, diagMessage a = diagMessage b → a = b := by
  decide

/-- A verdict reports a bit's message exactly when that bit of its `DIAG` is set (R110). -/
theorem diagMessage_mem_messages {v : Verdict} {b : Nat} (hb : b < 8) :
    diagMessage b ∈ v.messages ↔ v.diag.getLsbD b = true := by
  simp only [Verdict.messages, List.mem_map, List.mem_filter, List.mem_range]
  constructor
  · rintro ⟨a, ⟨ha, hbit⟩, hab⟩
    exact diagMessage_injOn a ha b hb hab ▸ hbit
  · exact fun hbit => ⟨b, ⟨hb, hbit⟩, rfl⟩

/-- Without an error only the warning's bit is left to report (R110). -/
theorem ErrorFree.messages_validate {p : FloorPolicy} {k : Consts} (h : ErrorFree p k) :
    (validate p k).messages = if wReloadLow p k then [diagMessage 7] else [] := by
  have herrors : (List.range 7).filter (diagOf p k).getLsbD = [] := by
    simpa [getLsbD_diagOf] using (errorFree_iff_diagCheck p k).mp h
  have hwarning : (diagOf p k).getLsbD 7 = wReloadLow p k := getLsbD_diagOf p k 7
  rw [Verdict.messages, diag_validate, List.range_succ, List.filter_append, herrors, List.nil_append, List.filter_singleton,
    hwarning]
  cases wReloadLow p k <;> rfl

/-- Settles O12: the messages are those of the set bits; a rejection has an error bit, an acceptance at most the warning's. -/
theorem messagesNameTheFailedChecks : Obligations.MessagesNameTheFailedChecks := by
  refine ⟨rfl, fun p k => ⟨fun b hb => ?_, List.filter_sublist.map _, fun d h => ?_, fun c d h => ?_⟩⟩
  · rw [diagMessage_mem_messages hb, diag_validate]
  · obtain ⟨b, hb, hbit⟩ := (exists_errorBit_iff p k).mpr (validate_eq_reject.mp h).1
    exact ⟨b, hb, (diagMessage_mem_messages (by omega)).mpr (by rwa [diag_validate])⟩
  · have hk := (validate_eq_accept.mp h).1
    simp only [hk.messages_validate, hk.wReloadLow_eq_true]

end Sys2Proof

namespace Sys2Proof.Machine

/-! ### The build step, and constants without a machine -/

/-- Settles O13: the step of VALIDATE writes the verdict alone. -/
theorem validateTouchesNoRegister : Obligations.ValidateTouchesNoRegister := by
  intro s
  refine ⟨_, exec_validate s, rfl, fun r => ?_, rfl, rfl, rfl, rfl, rfl⟩
  cases r <;> rfl

/-- No agent has a step without a machine (R50, R115). -/
theorem agentStep_absent {s : State} (h : s.cfg? = none) (a : Agent) : agentStep a s = .refused s.absence := by
  cases a with
  | main => exact withCfg_none h _
  | irq => exact exec_absent (i := .irq) h (by decide)
  | clock => exact exec_absent (i := .tick) h (by decide)

/-- Where the machine steps after the build, VALIDATE accepted its configuration (R115). -/
theorem step_accepted {s t : State} (h : step s = .next t) :
    s.verdict = none ∨
      ∃ c d, s.verdict = some (.accept c d) ∧ validate s.params.floorPolicy s.consts = .accept c d ∧ s.cfg? = some c := by
  rcases step_cases h with ⟨hn, -⟩ | ⟨c, -, -, hc, -, -⟩
  · exact .inl hn
  · obtain ⟨-, d, hv, hok⟩ := cfg?_eq_some.mp hc
    exact .inr ⟨c, d, hv, hok, hc⟩

/-- Settles O14: the build's verdict on such constants is the rejection, and whatever the verdict they have no configuration. -/
theorem rejectedConfigurationHasNoMachine : Obligations.RejectedConfigurationHasNoMachine := by
  refine ⟨fun s d hn hd => ?_, fun s d hd => ?_, fun s t => step_accepted⟩
  · exact ⟨_, (step_unbuilt hn).trans (exec_validate s), step_rejected (congrArg some hd)⟩
  · obtain ⟨hc, ha⟩ := absent_of_accepted? (accepted?_reject hd)
    rw [← ha]
    exact ⟨fun i hi => exec_absent hc hi, agentStep_absent hc, step_absent hc⟩

end Sys2Proof.Machine
end

section
/-! The periods counted since the last Boundary, along every run (41_engine.md R128, R129). -/

namespace Sys2Proof.Machine

/-! ### What an agent's step writes -/

/-- A step of MAIN or CLOCK raises a stop fault at the fetch, is a tick, or executes the command MAIN fetches (R140, R210). -/
theorem agentStep_cases_of_ne_irq {a : Agent} {s t : State} (h : agentStep a s = .next t) (ha : a ≠ .irq) :
    (∃ e, t = s.recordFault e) ∨ (a = .clock ∧ exec .tick s = .next t) ∨
    (a = .main ∧ ∃ i, i.isCommand = true ∧ nextCommand s = some i ∧ exec i s = .next t) := by
  cases a with
  | irq => exact absurd rfl ha
  | clock => exact .inr (.inl ⟨rfl, h⟩)
  | main =>
    rcases mainStep_cases h with ⟨-, ht⟩ | ⟨w, -, ht⟩ | ⟨w, i, hw, hd, hx⟩
    · exact .inl ⟨_, ht⟩
    · exact .inl ⟨_, ht⟩
    · exact .inr (.inr ⟨rfl, i, (decode_ok hd).1, nextCommand_eq_some.mpr ⟨w, hw, hd⟩, hx⟩)

theorem restarts_of_init {s t : State} {x : Sel} (h : nextCommand s = some (.init x)) :
    (Move.mk .main s t).restarts = true := by
  simp [Move.restarts, Move.command, h]

theorem restarts_of_rst {s t : State} (h : nextCommand s = some .rst) : (Move.mk .main s t).restarts = true := by
  simp [Move.restarts, Move.command, h]

/-- Only the handler and INIT write the counter (R40). -/
theorem agentStep_cnt_eq {a : Agent} {s t : State} (h : agentStep a s = .next t) (ha : a ≠ .irq)
    (hr : (Move.mk a s t).restarts = false) : t.cnt = s.cnt := by
  rcases agentStep_cases_of_ne_irq h ha with ⟨e, rfl⟩ | ⟨-, hx⟩ | ⟨rfl, i, hi, hn, hx⟩
  · rfl
  · by_contra hne
    simpa using (onlyTheListedStepsWrite _ _ _ hx).1 hne
  · by_contra hne
    rcases (onlyTheListedStepsWrite _ _ _ hx).1 hne with rfl | ⟨x, rfl⟩
    · cases hi
    · exact absurd (restarts_of_init hn) (ne_true_of_eq_false hr)

/-- Only POLLS writes the decision (R40). -/
theorem agentStep_pdec_eq {a : Agent} {s t : State} (h : agentStep a s = .next t)
    (hp : (Move.mk a s t).command ≠ some .polls) : t.pdec = s.pdec := by
  have hexec : ∀ i, i ≠ .polls → exec i s = .next t → t.pdec = s.pdec := fun i hi hx => by
    obtain ⟨-, hpdec, -⟩ := onlyTheListedStepsWrite _ _ _ hx
    exact not_not.mp fun hne => hi (hpdec hne)
  by_cases ha : a = .irq
  · subst ha
    exact hexec .irq (by simp) h
  rcases agentStep_cases_of_ne_irq h ha with ⟨e, rfl⟩ | ⟨-, hx⟩ | ⟨rfl, i, -, hn, hx⟩
  · rfl
  · exact hexec .tick (by simp) hx
  · exact hexec i (fun hi => hp (hi ▸ hn)) hx

/-! ### Runs -/

theorem run_sameLaunch {s t : State} {ms : List Move} (h : Run s ms t) : SameLaunch s t := by
  induction h with
  | stop s => exact SameLaunch.refl s
  | move h _ ih =>
    obtain ⟨-, -, hx⟩ := h
    obtain ⟨hp, hk, hv, hg⟩ := agentStep_sameLaunch hx
    obtain ⟨hp', hk', hv', hg'⟩ := ih
    exact ⟨hp'.trans hp, hk'.trans hk, hv'.trans hv, hg'.trans hg⟩

/-- A run is cut at any of its moves. -/
theorem run_append_cons {s t : State} {x y : List Move} {m : Move} :
    Run s (x ++ m :: y) t ↔ Run s x m.before ∧ Admits m.agent m.before m.after ∧ Run m.after y t := by
  induction x generalizing s with
  | nil =>
    constructor
    · rintro (_ | ⟨h, hr⟩)
      exact ⟨.stop _, h, hr⟩
    · rintro ⟨_ | _, h, hr⟩
      exact .move h hr
  | cons n x ih =>
    constructor
    · rintro (_ | ⟨h, hr⟩)
      obtain ⟨hx, hm⟩ := ih.mp hr
      exact ⟨.move h hx, hm⟩
    · rintro ⟨_ | ⟨h, hx⟩, hm⟩
      exact .move h (ih.mpr ⟨hx, hm⟩)

/-- A move of a run is a step the machine admits, in a state of the run's launch. -/
theorem run_mem {s t : State} {ms : List Move} {m : Move} (h : Run s ms t) (hm : m ∈ ms) :
    SameLaunch s m.before ∧ Admits m.agent m.before m.after := by
  obtain ⟨x, y, rfl⟩ := List.append_of_mem hm
  obtain ⟨hx, ha, -⟩ := run_append_cons.mp h
  exact ⟨run_sameLaunch hx, ha⟩

/-! ### The Boundary -/

theorem isBoundary_iff {s : State} {c : Cfg} (hc : s.cfg? = some c) :
    isBoundary s = true ↔ ∃ v, s.cnt = some v ∧ atBoundary s.params.countDir c v = true := by
  cases hv : s.cnt <;> simp [isBoundary, hc, hv]

/-- A Boundary leaves the counter at INITV (R121, R122). -/
theorem exec_irq_cnt_of_isBoundary {s t : State} {c : Cfg} (hc : s.cfg? = some c) (hb : isBoundary s = true)
    (hx : exec .irq s = .next t) : t.cnt = some (initv s.params.countDir c) := by
  obtain ⟨v, hv, hb⟩ := (isBoundary_iff hc).mp hb
  simp [exec_irq_cnt hc hv hx, hb]

theorem Move.isBoundary_iff {m : Move} : m.isBoundary = true ↔ m.agent = .irq ∧ Machine.isBoundary m.before = true := by
  simp [Move.isBoundary, Move.isIrq]

/-! ### The duty decision -/

/-- The duty count of an accepted configuration lies from 1 to below the repeat count (R106). -/
theorem D_bounds_of_cfg? {s : State} {c : Cfg} (h : s.cfg? = some c) : 1 ≤ c.D.toNat ∧ c.D.toNat < c.N.toNat := by
  obtain ⟨-, d, -, hd⟩ := cfg?_eq_some.mp h
  obtain ⟨hk, rfl, -⟩ := validate_eq_accept.mp hd
  rw [hk.cfgOf_D_toNat, hk.cfgOf_N_toNat]
  exact eDutyRange_eq_false.mp hk.dutyRange

/-- On a reachable counter value the threshold compare asks whether D periods have elapsed, in either convention (R125, R129). -/
theorem dutyReached_eq_elapsed {d : CountDir} {c : Cfg} {v : Word} (hv : cntInRange d c v = true)
    (hD : c.D.toNat ≤ c.N.toNat) : dutyReached d c v = decide (c.D.toNat ≤ elapsed d c v) := by
  rw [Bool.eq_iff_iff, dutyReached_iff, decide_eq_true_iff]
  cases d with
  | down =>
    rw [cntInRange_down] at hv
    show v.toNat ≤ (thr .down c).toNat ↔ c.D.toNat ≤ c.N.toNat - v.toNat
    rw [thr_down_toNat hD]
    omega
  | up => exact Iff.rfl

/-! ### The counter as a phase -/

/-- Full circles of `k`, and of what is left of it with `n` more, are those of `k + n`. -/
theorem add_div_add_mod_div {N : Nat} (hN : 0 < N) (k n : Nat) : k / N + (k % N + n) / N = (k + n) / N := by
  conv_rhs => rw [← Nat.mod_add_div k N, Nat.add_right_comm, Nat.add_mul_div_left _ _ hN, Nat.add_comm]

/-- The machine with configuration `c` stands `k` periods after a Boundary, its counter in the range of R22. -/
structure PhaseAt (c : Cfg) (k : Nat) (s : State) : Prop where
  cfg : s.cfg? = some c
  counter : ∃ v, s.cnt = some v ∧ cntInRange s.params.countDir c v = true ∧ elapsed s.params.countDir c v = k

namespace PhaseAt

variable {c : Cfg} {k : Nat} {s t : State}

theorem lt (h : PhaseAt c k s) : k < c.N.toNat := by
  obtain ⟨v, -, hv, rfl⟩ := h.counter
  exact elapsed_lt hv

/-- The counter INITV begins a phase (R7). -/
theorem of_initv (hc : s.cfg? = some c) (hv : s.cnt = some (initv s.params.countDir c)) : PhaseAt c 0 s :=
  ⟨hc, _, hv, cntInRange_initv (N_ne_zero_of_cfg? hc), elapsed_initv _ _⟩

theorem isBoundary_iff (h : PhaseAt c k s) : isBoundary s = true ↔ k + 1 = c.N.toNat := by
  obtain ⟨v, hv, hr, rfl⟩ := h.counter
  simp [Machine.isBoundary_iff h.cfg, hv, atBoundary_iff_elapsed hr]

/-- One handler step moves the phase on by one period, round the circle of N (R121, R122). -/
theorem exec_irq (h : PhaseAt c k s) (hx : exec .irq s = .next t) : PhaseAt c ((k + 1) % c.N.toNat) t := by
  obtain ⟨v, hv, hr, rfl⟩ := h.counter
  have hl := exec_sameLaunch hx (by simp)
  have hc : t.cfg? = some c := hl.cfg?.trans h.cfg
  have hcnt := exec_irq_cnt h.cfg hv hx
  obtain ⟨hp, -⟩ := hl
  rw [← hp] at hcnt hr ⊢
  cases hb : atBoundary t.params.countDir c v with
  | true =>
    rw [(atBoundary_iff_elapsed hr).mp hb, Nat.mod_self]
    exact of_initv hc (by simp [hcnt, hb])
  | false =>
    obtain ⟨hr', he⟩ := elapsed_countNext hr hb
    refine ⟨hc, _, by simp [hcnt, hb], hr', ?_⟩
    rw [he, Nat.mod_eq_of_lt (he ▸ elapsed_lt hr')]

/-- Between handler steps the phase stays, without INIT. -/
theorem of_ne_irq {a : Agent} (h : PhaseAt c k s) (hx : agentStep a s = .next t) (ha : a ≠ .irq)
    (hr : (Move.mk a s t).restarts = false) : PhaseAt c k t := by
  obtain ⟨v, hv, hrange⟩ := h.counter
  have hl := agentStep_sameLaunch hx
  refine ⟨hl.cfg?.trans h.cfg, v, (agentStep_cnt_eq hx ha hr).trans hv, ?_⟩
  obtain ⟨hp, -⟩ := hl
  rwa [hp]

/-- The step to the next period is a Boundary exactly when it completes a circle of N. -/
theorem toNat_isBoundary (h : PhaseAt c k s) : (isBoundary s).toNat = (k + 1) / c.N.toNat := by
  have hlt := h.lt
  cases hb : isBoundary s with
  | true => simp [h.isBoundary_iff.mp hb, Nat.div_self (Nat.zero_lt_of_lt hlt)]
  | false =>
    have hne : k + 1 ≠ c.N.toNat := mt h.isBoundary_iff.mpr (by simp [hb])
    simp [Nat.div_eq_of_lt (Nat.lt_of_le_of_ne hlt hne)]

/-- A stretch of a run with `n` handler steps moves the phase on by `n` periods, and each full circle of N is one Boundary (R128). -/
theorem of_run {ms : List Move} (h : PhaseAt c k s) (hr : Run s ms t) (hm : ∀ m ∈ ms, m.restarts = false) :
    PhaseAt c ((k + (ms.filter Move.isIrq).length) % c.N.toNat) t ∧
    (ms.filter Move.isBoundary).length = (k + (ms.filter Move.isIrq).length) / c.N.toNat := by
  induction hr generalizing k with
  | stop s => simp [Nat.mod_eq_of_lt h.lt, Nat.div_eq_of_lt h.lt, h]
  | @move s t u a ms ha _ ih =>
    obtain ⟨-, -, hx⟩ := ha
    obtain ⟨hm₁, hms⟩ := List.forall_mem_cons.mp hm
    by_cases hirq : a = .irq
    · subst hirq
      obtain ⟨hphase, hcount⟩ := ih (h.exec_irq hx) hms
      have hirqs : ((Move.mk .irq s t :: ms).filter Move.isIrq).length = 1 + (ms.filter Move.isIrq).length := by
        simp [Move.isIrq, Nat.add_comm]
      have hbounds : ((Move.mk .irq s t :: ms).filter Move.isBoundary).length =
          (isBoundary s).toNat + (ms.filter Move.isBoundary).length := by
        cases hb : isBoundary s <;> simp [Move.isBoundary, Move.isIrq, hb, Nat.add_comm]
      rw [hirqs, hbounds, h.toNat_isBoundary, hcount, ← Nat.add_assoc, add_div_add_mod_div (Nat.zero_lt_of_lt h.lt)]
      exact ⟨Nat.mod_add_mod .. ▸ hphase, rfl⟩
    · obtain ⟨hphase, hcount⟩ := ih (h.of_ne_irq hx hirq hm₁) hms
      simpa [Move.isIrq, Move.isBoundary, hirq] using ⟨hphase, hcount⟩

/-- Short of a full circle the phase is the count of the handler steps, and none of them is a Boundary. -/
theorem of_run_lt {ms : List Move} (h : PhaseAt c k s) (hr : Run s ms t) (hm : ∀ m ∈ ms, m.restarts = false)
    (hlt : k + (ms.filter Move.isIrq).length < c.N.toNat) :
    PhaseAt c (k + (ms.filter Move.isIrq).length) t ∧ ∀ m ∈ ms, m.isBoundary = false := by
  obtain ⟨hphase, hcount⟩ := h.of_run hr hm
  rw [Nat.mod_eq_of_lt hlt] at hphase
  rw [Nat.div_eq_of_lt hlt, List.length_eq_zero_iff, List.filter_eq_nil_iff] at hcount
  exact ⟨hphase, fun m hmem => Bool.eq_false_iff.mpr (hcount m hmem)⟩

/-- An atomic POLLS decides whether D periods have elapsed (R125). -/
theorem exec_polls (h : PhaseAt c k s) (ha : s.params.readAtomic = true) :
    ∃ u, exec .polls s = .next u ∧ u.pdec = some (decide (c.D.toNat ≤ k)) := by
  obtain ⟨v, hv, hr, rfl⟩ := h.counter
  obtain ⟨-, hDN⟩ := D_bounds_of_cfg? h.cfg
  refine ⟨_, exec_polls_atomic h.cfg hv ha, ?_⟩
  simp [decideDuty, dutyReached_eq_elapsed hr (Nat.le_of_lt hDN)]

end PhaseAt

/-- Settles O37: the phase after the stretch is its count of periods round the circle of N. -/
theorem periodProperty : Obligations.PeriodProperty := by
  intro s t ms c v hr hc hv hrange hm
  have h : PhaseAt c (elapsed s.params.countDir c v) s := ⟨hc, v, hv, hrange, rfl⟩
  obtain ⟨hphase, hcount⟩ := h.of_run hr hm
  obtain ⟨v', hv', hrange', he'⟩ := hphase.counter
  rw [(run_sameLaunch hr).1] at hrange' he'
  refine ⟨hcount, ⟨v', hv', hrange', he'⟩, ?_, fun hN => ?_⟩
  · intro m hmem hb
    obtain ⟨hl, -, -, hx⟩ := run_mem hr hmem
    obtain ⟨hirq, hb⟩ := Move.isBoundary_iff.mp hb
    rw [hirq] at hx
    rw [← hl.1]
    exact exec_irq_cnt_of_isBoundary (hl.cfg?.trans hc) hb hx
  · rw [hN, Nat.add_mod_right, Nat.mod_eq_of_lt h.lt] at he'
    rw [hN, Nat.add_div_right _ (Nat.zero_lt_of_lt h.lt), Nat.div_eq_of_lt h.lt] at hcount
    exact ⟨hcount, by rw [hv', hv, elapsed_inj hrange' hrange he']⟩

/-- Settles O43: below N the phase is the count of the handler steps, and POLLS compares it with D. -/
theorem dutyDecisionCountsPeriods : Obligations.DutyDecisionCountsPeriods := by
  intro s t ms c _ hr hc ha hv hm hlt
  have hphase := ((PhaseAt.of_initv hc hv).of_run_lt hr hm (by omega)).1
  rw [Nat.zero_add] at hphase
  have hp := (run_sameLaunch hr).1
  obtain ⟨u, hx, hu⟩ := hphase.exec_polls (hp ▸ ha)
  obtain ⟨v, hv', -, he⟩ := hphase.counter
  exact ⟨u, v, hv', hp ▸ he, hx, hu⟩

end Sys2Proof.Machine
end

section
/-! `OnlyChanges` register by register (10_state.md R20, R40). -/

namespace Sys2Proof.Machine

theorem Reg.forall_iff {p : Reg → Prop} :
    (∀ r, p r) ↔ p .cnt ∧ p .pdec ∧ p .latlo ∧ p .msub ∧ p .mpc ∧ p .gie ∧ p .tie ∧ p .pend ∧ p .tsel ∧ p .trld ∧ p .tcnt ∧
      p .dir ∧ p .lvl ∧ p .fault := by
  constructor
  · intro h
    exact ⟨h _, h _, h _, h _, h _, h _, h _, h _, h _, h _, h _, h _, h _, h _⟩
  · rintro ⟨hcnt, hpdec, hlatlo, hmsub, hmpc, hgie, htie, hpend, htsel, htrld, htcnt, hdir, hlvl, hfault⟩ r
    cases r <;> assumption

/-- The frame of an update that names its fields: `simp` compares the fourteen registers, the launch and the schedule. -/
theorem onlyChanges_iff {rs : List Reg} {s t : State} :
    OnlyChanges rs s t ↔
      ((.cnt ∉ rs → t.cnt = s.cnt) ∧ (.pdec ∉ rs → t.pdec = s.pdec) ∧ (.latlo ∉ rs → t.latlo = s.latlo) ∧
        (.msub ∉ rs → t.msub = s.msub) ∧ (.mpc ∉ rs → t.mpc = s.mpc) ∧ (.gie ∉ rs → t.gie = s.gie) ∧
        (.tie ∉ rs → t.tie = s.tie) ∧ (.pend ∉ rs → t.pend = s.pend) ∧ (.tsel ∉ rs → t.tsel = s.tsel) ∧
        (.trld ∉ rs → t.trld = s.trld) ∧ (.tcnt ∉ rs → t.tcnt = s.tcnt) ∧ (.dir ∉ rs → t.dir = s.dir) ∧
        (.lvl ∉ rs → t.lvl = s.lvl) ∧ (.fault ∉ rs → t.fault = s.fault)) ∧
      (t.params = s.params ∧ t.consts = s.consts ∧ t.verdict = s.verdict ∧ t.prog = s.prog) ∧
      t.sched = s.sched ∧ t.choices = s.choices :=
  and_congr_left fun _ => Reg.forall_iff

end Sys2Proof.Machine
end

section
/-! The strobe pins: what a step does to STROBE, with the main program off the strobe pins or not (41_engine.md R123, R124, R127). -/

namespace Sys2Proof.Machine

/-! ### Levels and masks -/

theorem or_and_mask (x m : Byte) : (x ||| m) &&& m = m :=
  and_eq_mask_iff.mpr fun i hi => by simp [hi]

theorem and_not_and_mask (x m : Byte) : x &&& ~~~m &&& m = 0 :=
  and_eq_zero_iff.mpr fun i hi => by simp [hi]

theorem or_and_of_disjoint {m k : Byte} (h : m &&& k = 0) (x : Byte) : (x ||| m) &&& k = x &&& k := by
  simp [BitVec.and_or_distrib_right, h]

theorem and_not_of_disjoint {x m : Byte} (h : x &&& m = 0) : x &&& ~~~m = x :=
  calc x &&& ~~~m = (x &&& ~~~m) ||| (x &&& m) := by rw [h]; simp
    _ = x := by rw [← BitVec.and_or_distrib_left, BitVec.or_comm, BitVec.or_not_self, BitVec.and_allOnes]

theorem and_not_and_of_disjoint {m k : Byte} (h : m &&& k = 0) (x : Byte) : x &&& ~~~m &&& k = x &&& k := by
  rw [BitVec.and_assoc, BitVec.and_comm (~~~m), and_not_of_disjoint (BitVec.and_comm m k ▸ h)]

/-! ### STROBE as a function of the pins -/

theorem strobe_eq_one {s : State} {c : Cfg} (hc : s.cfg? = some c) :
    strobe s = .one ↔ c.mask ≠ 0 ∧ s.dir &&& c.mask = c.mask ∧ s.lvl &&& c.mask = c.mask :=
  (strobeByMasks s c hc).1

theorem strobe_eq_zero {s : State} {c : Cfg} (hc : s.cfg? = some c) :
    strobe s = .zero ↔ c.mask ≠ 0 ∧ s.dir &&& c.mask = c.mask ∧ s.lvl &&& c.mask = 0 :=
  (strobeByMasks s c hc).2.1

theorem strobe_congr {s t : State} {c : Cfg} (hc : s.cfg? = some c) (hl : SameLaunch s t)
    (hdir : t.dir &&& c.mask = s.dir &&& c.mask) (hlvl : t.lvl &&& c.mask = s.lvl &&& c.mask) : strobe t = strobe s := by
  rw [strobe_eq_strobeOn (hl.cfg?.trans hc), strobe_eq_strobeOn hc, strobeOn_eq, strobeOn_eq, hdir, hlvl]

theorem risingEdge_eq_true {s t : State} : risingEdge s t = true ↔ strobe t = .one ∧ strobe s ≠ .one := by
  simp [risingEdge]

theorem fallingEdge_eq_true {s t : State} : fallingEdge s t = true ↔ strobe t = .zero ∧ strobe s = .one := by
  simp [fallingEdge]

/-! ### IRQ -/

/-- The handler raises the strobe pins at a Boundary, and touches no pin otherwise. -/
theorem exec_irq_strobe {s t : State} {c : Cfg} (hc : s.cfg? = some c) (hx : exec .irq s = .next t) :
    (isBoundary s = true ∧ t.dir = s.dir ∧ t.lvl = s.lvl ||| c.mask) ∨ (isBoundary s = false ∧ strobe t = strobe s) := by
  have hl := exec_sameLaunch hx (by simp)
  cases hv : s.cnt with
  | none =>
    cases hx.symm.trans (exec_irq_undef hc hv)
    exact .inr ⟨by simp [isBoundary, hc, hv], rfl⟩
  | some v =>
    obtain ⟨hlvl, hdir⟩ := exec_irq_pins hc hv hx
    cases hb : atBoundary s.params.countDir c v with
    | true => exact .inl ⟨by simp [isBoundary, hc, hv, hb], hdir, by simpa [hb] using hlvl⟩
    | false =>
      refine .inr ⟨by simp [isBoundary, hc, hv, hb], strobe_congr hc hl (by rw [hdir]) ?_⟩
      rw [hlvl, hb]
      rfl

/-- Settles O38: at a Boundary every strobe pin is at 1, and a step that is none leaves STROBE as it was. -/
theorem boundaryMakesTheRisingEdge : Obligations.BoundaryMakesTheRisingEdge := by
  intro s t c v hc _ hx
  rw [risingEdge_eq_true, ← Bool.not_eq_true, fallingEdge_eq_true]
  have hct := (exec_sameLaunch hx (by simp)).cfg?.trans hc
  rcases exec_irq_strobe hc hx with ⟨hb, hdir, hlvl⟩ | ⟨hb, hs⟩
  · rw [strobe_eq_one hct, strobe_eq_zero hct, hdir, hlvl, or_and_mask]
    exact ⟨by simp [hb]; tauto, fun h => h.1.1 h.1.2.2⟩
  · rw [hs]
    exact ⟨by simp [hb], by rintro ⟨h0, h1⟩; simp [h0] at h1⟩

/-! ### POLLA -/

/-- Lowered strobe pins are not at 1. -/
theorem strobe_ne_one_of_lvl {s : State} {c : Cfg} (hc : s.cfg? = some c) (hlvl : s.lvl &&& c.mask = 0) : strobe s ≠ .one := by
  rw [Ne, strobe_eq_one hc, hlvl]
  exact fun h => h.1 h.2.2.symm

/-- Lowering the strobe pins makes a falling edge exactly when STROBE was 1. -/
theorem fallingEdge_driveLow {s : State} {c : Cfg} (hc : s.cfg? = some c) :
    fallingEdge s (s.driveLow c.mask).advance = true ↔ strobe s = .one := by
  have hct : (s.driveLow c.mask).advance.cfg? = some c := hc
  rw [fallingEdge_eq_true, strobe_eq_zero hct]
  constructor
  · exact And.right
  · intro h
    obtain ⟨hmask, hdir, -⟩ := (strobe_eq_one hc).mp h
    exact ⟨⟨hmask, hdir, and_not_and_mask s.lvl c.mask⟩, h⟩

/-- Settles O42, by the three values of the latched decision. -/
theorem pollaLowersTheStrobe : Obligations.PollaLowersTheStrobe := by
  refine ⟨rfl, fun s c hc hd => ?_, fun s c hc hd => ?_, fun s c hc hd => ?_⟩
  · exact ⟨_, exec_polla_undef hc hd, addsFault_recordFault s _, by simp [FaultEntry.isStop], onlyChanges_recordFault s _⟩
  · refine ⟨_, exec_polla_true hc hd, rfl, rfl, by simp [onlyChanges_iff], fallingEdge_driveLow hc, fun h => ?_⟩
    obtain ⟨-, -, hlvl⟩ := (strobe_eq_zero hc).mp h
    exact and_not_of_disjoint hlvl
  · exact ⟨_, exec_polla_false hc hd, rfl, by simp [onlyChanges_iff]⟩

/-! ### The main program -/

/-- Under the discipline MAIN's command is off the strobe pins (R61). -/
theorem Disciplined.writesPins_eq_false {s : State} {c : Cfg} {i : Instr} (h : Disciplined s) (hc : s.cfg? = some c)
    (hn : nextCommand s = some i) : writesPins c.mask i = false := by
  obtain ⟨w, hw, hd⟩ := nextCommand_eq_some.mp hn
  exact h c w i hc (List.mem_of_getElem? hw) hd

theorem Disciplined.of_sameLaunch {s t : State} (h : Disciplined s) (hl : SameLaunch s t) : Disciplined t := by
  intro c w i hc hw hd
  rw [hl.cfg?] at hc
  rw [hl.2.2.2] at hw
  exact h c w i hc hw hd

/-- What a command does to STROBE under the discipline: POLLA lowers it, RST and INIT end with it not at 1, and the others keep it. -/
theorem exec_command_strobe {s t : State} {c : Cfg} {i : Instr} (hc : s.cfg? = some c) (hi : i.isCommand = true)
    (hw : writesPins c.mask i = false) (hx : exec i s = .next t) :
    (i = .polla ∧ s.pdec = some true ∧ t = (s.driveLow c.mask).advance) ∨
    ((i = .rst ∨ ∃ x, i = .init x) ∧ strobe t ≠ .one) ∨ strobe t = strobe s := by
  have hl : SameLaunch s t := exec_sameLaunch hx (by rintro rfl; cases hi)
  have hct := hl.cfg?.trans hc
  cases i with
  | polla =>
    obtain ⟨c', hc', ⟨-, rfl⟩ | ⟨hd, rfl⟩ | ⟨-, rfl⟩⟩ := exec_polla_cases hx
    · exact .inr (.inr rfl)
    · cases hc.symm.trans hc'
      exact .inl ⟨rfl, hd, rfl⟩
    · exact .inr (.inr rfl)
  | rst =>
    obtain rfl : t = _ := exec_plain_cases hx
    exact .inr (.inl ⟨.inl rfl, strobe_ne_one_of_lvl hct BitVec.zero_and⟩)
  | init x =>
    obtain ⟨c', hc', ⟨-, rfl⟩ | ⟨-, rfl⟩⟩ := exec_init_cases hx
    · exact .inr (.inr rfl)
    · cases hc.symm.trans hc'
      exact .inr (.inl ⟨.inr ⟨x, rfl⟩, strobe_ne_one_of_lvl hct (and_not_and_mask s.lvl c.mask)⟩)
  | pdir m =>
    obtain rfl : t = _ := exec_plain_cases hx
    exact .inr (.inr (strobe_congr hc hl (or_and_of_disjoint (by simpa [writesPins] using hw) s.dir) rfl))
  | phigh m =>
    obtain rfl : t = _ := exec_plain_cases hx
    exact .inr (.inr (strobe_congr hc hl rfl (or_and_of_disjoint (by simpa [writesPins] using hw) s.lvl)))
  | plow m =>
    obtain rfl : t = _ := exec_plain_cases hx
    exact .inr (.inr (strobe_congr hc hl rfl (and_not_and_of_disjoint (by simpa [writesPins] using hw) s.lvl)))
  | polls =>
    obtain ⟨c', -, ⟨-, rfl⟩ | ⟨v, -, ⟨-, rfl⟩ | ⟨-, -, rfl⟩ | ⟨-, -, rfl⟩⟩⟩ := exec_polls_cases hx <;> exact .inr (.inr rfl)
  | enable | tconf _ | treload _ | tinst | loop _ =>
    obtain rfl : t = _ := exec_plain_cases hx
    exact .inr (.inr rfl)
  | tick | irq | validate => cases hi

/-- What a step does to STROBE under the discipline: a Boundary raises it and POLLA lowers it, RST and INIT end with it not at 1, and
every other step keeps it. -/
theorem agentStep_strobe {a : Agent} {s t : State} {c : Cfg} (hc : s.cfg? = some c) (hd : Disciplined s)
    (hx : agentStep a s = .next t) :
    (a = .irq ∧ isBoundary s = true ∧ t.dir = s.dir ∧ t.lvl = s.lvl ||| c.mask) ∨
    ((Move.mk a s t).command = some .polla ∧ s.pdec = some true ∧ t = (s.driveLow c.mask).advance) ∨
    ((Move.mk a s t).restarts = true ∧ strobe t ≠ .one) ∨ strobe t = strobe s := by
  by_cases ha : a = .irq
  · subst ha
    rcases exec_irq_strobe hc hx with ⟨hb, hpins⟩ | ⟨-, hs⟩
    · exact .inl ⟨rfl, hb, hpins⟩
    · exact .inr (.inr (.inr hs))
  rcases agentStep_cases_of_ne_irq hx ha with ⟨e, rfl⟩ | ⟨-, hx⟩ | ⟨rfl, i, hi, hn, hx⟩
  · exact .inr (.inr (.inr rfl))
  · obtain ⟨-, -, -, -, -, -, -, -, -, -, -, hdir, hlvl⟩ := onlyTheListedStepsWrite _ _ _ hx
    have hdir : t.dir = s.dir := by simpa using hdir
    have hlvl : t.lvl = s.lvl := by simpa using hlvl
    exact .inr (.inr (.inr (strobe_congr hc (exec_sameLaunch hx (by simp)) (by rw [hdir]) (by rw [hlvl]))))
  · rcases exec_command_strobe hc hi (hd.writesPins_eq_false hc hn) hx with ⟨rfl, hp⟩ | ⟨rfl | ⟨x, rfl⟩, h1⟩ | hs
    · exact .inr (.inl ⟨hn, hp⟩)
    · exact .inr (.inr (.inl ⟨restarts_of_rst hn, h1⟩))
    · exact .inr (.inr (.inl ⟨restarts_of_init hn, h1⟩))
    · exact .inr (.inr (.inr hs))

/-- Settles O39: of the steps that change STROBE only a Boundary leaves it at 1. -/
theorem onlyBoundariesRaiseTheStrobe : Obligations.OnlyBoundariesRaiseTheStrobe := by
  rintro a s t hd ⟨hc, -, hx⟩ hr
  obtain ⟨c, hc⟩ := Option.isSome_iff_exists.mp hc
  obtain ⟨h1, h0⟩ := risingEdge_eq_true.mp hr
  rcases agentStep_strobe hc hd hx with ⟨ha, hb, -⟩ | ⟨-, -, rfl⟩ | ⟨-, hne⟩ | hs
  · exact ⟨ha, hb⟩
  · exact absurd h1 (strobe_ne_one_of_lvl (c := c) hc (and_not_and_mask s.lvl c.mask))
  · exact absurd h1 hne
  · exact absurd (hs ▸ h1) h0

end Sys2Proof.Machine
end

section
/-! IRQ from any counter value, and the first Boundary of a series of handler steps (41_engine.md R120 to R123). -/

namespace Sys2Proof.Machine

/-- Settles O35, by the boundary test of each convention. -/
theorem irqCountsOrReloads : Obligations.IrqCountsOrReloads := by
  refine ⟨rfl, fun s c hc hv => ?_, fun s c v hc hv => ?_⟩
  · exact ⟨_, exec_irq_undef hc hv, addsFault_recordFault s _, by simp [FaultEntry.isStop], onlyChanges_recordFault s _⟩
  · refine ⟨_, exec_irq_some hc hv, by simp [handlerBody_eq], ?_⟩
    cases hd : s.params.countDir with
    | down =>
      by_cases hb : v - 1#16 = 0#16 <;>
        simp [handlerBody_eq, onlyChanges_iff, hd, hb, atBoundary, countNext, initv]
    | up =>
      by_cases hb : v + 1#16 = c.N <;>
        simp [handlerBody_eq, onlyChanges_iff, hd, hb, atBoundary, countNext, initv]

/-- How many handler steps from the counter value `v` the first Boundary comes at (R121 to R123). -/
def stepsToBoundary (d : CountDir) (c : Cfg) (v : Word) : Nat :=
  match d with
  | .down => if v = 0 then 65536 else v.toNat
  | .up => if v.toNat < c.N.toNat then c.N.toNat - v.toNat else 65536 - v.toNat + c.N.toNat

/-- Counting down to 0, modulo 2^16. -/
theorem stepsToBoundary_down (c : Cfg) (v : Word) : stepsToBoundary .down c v = (v.toNat + 65535) % 65536 + 1 := by
  have hv := v.isLt
  by_cases h : v = 0
  · simp [stepsToBoundary, h]
  · have hpos : v.toNat ≠ 0 := fun h0 => h (BitVec.eq_of_toNat_eq h0)
    rw [stepsToBoundary, if_neg h]
    omega

/-- Counting up to N, modulo 2^16. -/
theorem stepsToBoundary_up (c : Cfg) (v : Word) :
    stepsToBoundary .up c v = (c.N.toNat + 65535 - v.toNat) % 65536 + 1 := by
  have hv := v.isLt
  have hN := c.N.isLt
  rw [stepsToBoundary]
  split <;> omega

theorem atBoundary_iff_stepsToBoundary (d : CountDir) (c : Cfg) (v : Word) :
    atBoundary d c v = true ↔ stepsToBoundary d c v = 1 := by
  have hv := v.isLt
  have hN := c.N.isLt
  cases d with
  | down =>
    rw [atBoundary_down, stepsToBoundary_down]
    omega
  | up =>
    rw [atBoundary_up, stepsToBoundary_up]
    omega

/-- A step that is no Boundary brings the first one nearer by one. -/
theorem stepsToBoundary_countNext {d : CountDir} {c : Cfg} {v : Word} (h : stepsToBoundary d c v ≠ 1) :
    stepsToBoundary d c (countNext d v) + 1 = stepsToBoundary d c v := by
  have hv := v.isLt
  have hN := c.N.isLt
  cases d with
  | down =>
    have hnext : (countNext .down v).toNat = (v.toNat + 65535) % 65536 := by
      show (v - 1).toNat = _
      bv_omega
    rw [stepsToBoundary_down] at h
    rw [stepsToBoundary_down, stepsToBoundary_down, hnext]
    omega
  | up =>
    have hnext : (countNext .up v).toNat = (v.toNat + 1) % 65536 := BitVec.toNat_add v 1
    rw [stepsToBoundary_up] at h
    rw [stepsToBoundary_up, stepsToBoundary_up, hnext]
    omega

/-- A series of handler steps short of the first Boundary completes, and its next step is that Boundary exactly when it is due. -/
theorem repeatExec_irq_isBoundary {k : Nat} {s : State} {c : Cfg} {v : Word} (hc : s.cfg? = some c) (hv : s.cnt = some v)
    (hk : k < stepsToBoundary s.params.countDir c v) :
    ∃ t, repeatExec .irq k s = .next t ∧ (isBoundary t = true ↔ k + 1 = stepsToBoundary s.params.countDir c v) := by
  induction k generalizing s v with
  | zero =>
    refine ⟨s, rfl, ?_⟩
    rw [isBoundary_iff hc]
    simpa [hv, atBoundary_iff_stepsToBoundary] using eq_comm
  | succ k ih =>
    have hfar : stepsToBoundary s.params.countDir c v ≠ 1 := by omega
    have hnext := stepsToBoundary_countNext hfar
    obtain ⟨t, ht⟩ := exec_completes .irq (cfg?_isSome hc)
    have hl := exec_sameLaunch ht (by simp)
    have hcnt := exec_irq_cnt hc hv ht
    rw [if_neg (mt (atBoundary_iff_stepsToBoundary ..).mp hfar), ← hl.1] at hcnt
    rw [← hl.1] at hnext hk ⊢
    obtain ⟨u, hu, hiff⟩ := ih (hl.cfg?.trans hc) hcnt (by omega)
    exact ⟨u, by simp [repeatExec, ht, hu], by rw [hiff]; omega⟩

/-- Settles O36, by induction on the series. -/
theorem firstBoundaryAfter : Obligations.FirstBoundaryAfter := by
  intro s c v k hc hv hk
  exact repeatExec_irq_isBoundary hc hv hk

end Sys2Proof.Machine
end

section
/-! POLLS in one read and in two halves (41_engine.md R125, R126). -/

namespace Sys2Proof.Machine

/-- The two bytes of a counter value put together are that value (R126). -/
theorem splitRead_lowByte (v : Word) : splitRead v (lowByte v) = v :=
  opField_append_immField v

/-- Deciding on a value writes PDEC and MPC (R125). -/
theorem onlyChanges_decideDuty (c : Cfg) (v : Word) (s : State) : OnlyChanges [.pdec, .mpc] s (decideDuty c v s) := by
  simp [onlyChanges_iff, decideDuty]

theorem decideDuty_pdec_down {c : Cfg} {v : Word} {s : State} (h : s.params.countDir = .down) :
    (decideDuty c v s).pdec = some (decide (v ≤ c.N - c.D)) := by
  simp [decideDuty, h, dutyReached, thr, BitVec.le_def]

theorem decideDuty_pdec_up {c : Cfg} {v : Word} {s : State} (h : s.params.countDir = .up) :
    (decideDuty c v s).pdec = some (decide (c.D ≤ v)) := by
  simp [decideDuty, h, dutyReached, thr, BitVec.le_def]

theorem exec_polls_undef_stops {s : State} {c : Cfg} (hc : s.cfg? = some c) (hv : s.cnt = none) :
    ∃ t, exec .polls s = .next t ∧ AddsFault (.undefCntPolls s.mpc) s t ∧ t.stopped = true ∧ OnlyChanges [.fault] s t :=
  ⟨_, exec_polls_undef hc hv, addsFault_recordFault s _, by simp [FaultEntry.isStop], onlyChanges_recordFault s _⟩

/-- Settles O40: the read is the counter's value, compared with the threshold of the convention. -/
theorem pollsLatchesTheDecision : Obligations.PollsLatchesTheDecision := by
  refine ⟨rfl, fun s c hc hv _ => exec_polls_undef_stops hc hv, fun s c v hc hv ha => ?_⟩
  exact ⟨_, exec_polls_atomic hc hv ha, rfl, onlyChanges_decideDuty c v s, decideDuty_pdec_down, decideDuty_pdec_up⟩

/-- Settles O41: each half by the state it finds; in a row the second half joins the counter's own two bytes. -/
theorem pollsReadsInTwoHalves : Obligations.PollsReadsInTwoHalves := by
  refine ⟨fun s c hc hv _ => exec_polls_undef_stops hc hv, fun s c v hc hv ha hm => ?_, fun s c v lo hc hv ha hm hlo => ?_,
    fun s c v hc hv ha hm hlo => ?_, fun s c v hc hv ha hm => ?_⟩
  · exact ⟨_, exec_polls_first hc hv ha hm, rfl, rfl, by simp [onlyChanges_iff]⟩
  · have hread : splitRead v (latchedLow s) = v.extractLsb' 8 8 ++ lo := by simp [splitRead, highByte, latchedLow, hlo]
    refine ⟨_, exec_polls_second hc hv ha hm, rfl, rfl, ?_, ?_, ?_⟩
    · simp [onlyChanges_iff, decideDuty, choicesAfterLatch, hlo]
    · exact fun hd => hread ▸ decideDuty_pdec_down hd
    · exact fun hd => hread ▸ decideDuty_pdec_up hd
  · refine ⟨_, _, exec_polls_second hc hv ha hm, rfl, rfl, rfl, ?_, rfl, rfl, rfl, rfl⟩
    rw [Reg.forall_iff]
    simp [Reg.same, decideDuty]
  · have hfirst := exec_polls_first hc hv ha hm
    refine ⟨_, execAll_cons hfirst (execAll_single (exec_polls_second (c := c) (v := v) hc hv ha rfl)), ?_, rfl, rfl, ?_⟩
    · simp [decideDuty, latchedLow, splitRead_lowByte]
    · simp [onlyChanges_iff, decideDuty, choicesAfterLatch, hm]

end Sys2Proof.Machine
end

section
/-! The two counting conventions: a step counting down and the step counting up from the same phase (41_engine.md R130). -/

namespace Sys2Proof.Machine

/-! ### The map of counter values -/

/-- The map of counter values keeps the phase. -/
theorem elapsed_upValue {c : Cfg} {v : Word} (h : cntInRange .down c v = true) :
    cntInRange .up c (upValue c v) = true ∧ elapsed .up c (upValue c v) = elapsed .down c v := by
  have hN := c.N.isLt
  rw [cntInRange_down] at h
  have hval : (upValue c v).toNat = c.N.toNat - v.toNat := by
    rw [upValue, BitVec.toNat_ofNat, Nat.mod_eq_of_lt (by omega : c.N.toNat - v.toNat < c.N.toNat)]
    omega
  rw [cntInRange_up]
  exact ⟨by omega, hval⟩

theorem upValue_initv (c : Cfg) : upValue c (initv .down c) = initv .up c := by
  simp [upValue, initv]

theorem atBoundary_upValue {c : Cfg} {v : Word} (h : cntInRange .down c v = true) :
    atBoundary .up c (upValue c v) = atBoundary .down c v := by
  obtain ⟨hr, he⟩ := elapsed_upValue h
  rw [Bool.eq_iff_iff, atBoundary_iff_elapsed hr, atBoundary_iff_elapsed h, he]

theorem upValue_countNext {c : Cfg} {v : Word} (h : cntInRange .down c v = true) (hb : atBoundary .down c v = false) :
    upValue c (countNext .down v) = countNext .up (upValue c v) := by
  obtain ⟨hr, he⟩ := elapsed_upValue h
  obtain ⟨hr₁, he₁⟩ := elapsed_countNext h hb
  obtain ⟨hr₂, he₂⟩ := elapsed_upValue hr₁
  obtain ⟨hr₃, he₃⟩ := elapsed_countNext hr ((atBoundary_upValue h).trans hb)
  exact elapsed_inj hr₂ hr₃ (by rw [he₂, he₁, he₃, he])

theorem dutyReached_upValue {c : Cfg} {v : Word} (h : cntInRange .down c v = true) (hD : c.D.toNat ≤ c.N.toNat) :
    dutyReached .up c (upValue c v) = dutyReached .down c v := by
  obtain ⟨hr, he⟩ := elapsed_upValue h
  rw [dutyReached_eq_elapsed hr hD, dutyReached_eq_elapsed h hD, he]

/-! ### The map of states -/

/-- `toUp` where the machine exists, with its configuration. -/
def toUpWith (c : Cfg) (s : State) : State :=
  { s with params := { s.params with countDir := .up }, cnt := s.cnt.map (upValue c) }

theorem toUp_eq {s : State} {c : Cfg} (hc : s.cfg? = some c) : toUp s = toUpWith c s := by
  simp [toUp, toUpWith, hc]

theorem cfg?_toUpWith (c : Cfg) (s : State) : (toUpWith c s).cfg? = s.cfg? := rfl

theorem mayStep_toUpWith (c : Cfg) (s : State) (a : Agent) : mayStep (toUpWith c s) a = mayStep s a := by
  cases a <;> rfl

theorem pick_toUpWith (c : Cfg) (s : State) : pick (toUpWith c s) = (pick s).map fun p => (p.1, toUpWith c p.2) := by
  have hadm : admissible (toUpWith c s) = admissible s := rfl
  have hen : enabled (toUpWith c s) = enabled s := rfl
  unfold pick
  rw [hadm, hen]
  split
  · rfl
  · split <;> rfl

theorem timerEvent_toUpWith (c : Cfg) (s : State) : timerEvent (toUpWith c s) = toUpWith c (timerEvent s) := by
  rw [timerEvent_eq, timerEvent_eq]
  rfl

theorem initialise_toUpWith {c : Cfg} {s : State} (hd : s.params.countDir = .down) :
    initialise c (toUpWith c s) = toUpWith c (initialise c s) := by
  simp [initialise, toUpWith, State.advance, State.makeOutput, State.driveLow, hd, upValue_initv]

theorem handlerBody_toUpWith {c : Cfg} {v : Word} {s : State} (hd : s.params.countDir = .down)
    (hr : cntInRange .down c v = true) : handlerBody c (upValue c v) (toUpWith c s) = toUpWith c (handlerBody c v s) := by
  rw [handlerBody_eq, handlerBody_eq]
  cases hb : atBoundary .down c v with
  | true => simp [toUpWith, hd, atBoundary_upValue hr, hb, upValue_initv]
  | false => simp [toUpWith, hd, atBoundary_upValue hr, hb, upValue_countNext hr hb]

theorem decideDuty_toUpWith {c : Cfg} {v : Word} {s : State} (hd : s.params.countDir = .down)
    (hr : cntInRange .down c v = true) (hD : c.D.toNat ≤ c.N.toNat) :
    decideDuty c (upValue c v) (toUpWith c s) = toUpWith c (decideDuty c v s) := by
  simp [decideDuty, toUpWith, State.advance, hd, dutyReached_upValue hr hD]

/-! ### The steps -/

/-- A machine counting down with an atomic read, its counter in the range of R22. -/
structure CountsDown (c : Cfg) (s : State) : Prop where
  cfg : s.cfg? = some c
  down : s.params.countDir = .down
  atomic : s.params.readAtomic = true
  range : ∀ v, s.cnt = some v → cntInRange .down c v = true

namespace CountsDown

variable {c : Cfg} {s t : State}

theorem exec_toUpWith {i : Instr} (h : CountsDown c s) (hi : i ≠ .validate) (hx : exec i s = .next t) :
    exec i (toUpWith c s) = .next (toUpWith c t) := by
  have hc : (toUpWith c s).cfg? = some c := h.cfg
  cases i with
  | validate => exact absurd rfl hi
  | init x =>
    obtain ⟨c', hc', ⟨hne, rfl⟩ | ⟨rfl, rfl⟩⟩ := exec_init_cases hx
    · cases h.cfg.symm.trans hc'
      exact exec_init_mismatch hc hne
    · cases h.cfg.symm.trans hc'
      rw [exec_init_match hc, initialise_toUpWith h.down]
  | irq =>
    obtain ⟨c', hc', ⟨hv, rfl⟩ | ⟨v, hv, rfl⟩⟩ := exec_irq_cases hx
    · exact exec_irq_undef hc (by simp [toUpWith, hv])
    · cases h.cfg.symm.trans hc'
      rw [exec_irq_some (v := upValue c v) hc (by simp [toUpWith, hv])]
      exact congrArg _ (handlerBody_toUpWith (s := s.enterHandler) h.down (h.range v hv))
  | polls =>
    obtain ⟨-, hDN⟩ := D_bounds_of_cfg? h.cfg
    obtain ⟨c', hc', ⟨hv, rfl⟩ | ⟨v, hv, ⟨ha, rfl⟩ | ⟨ha, -⟩ | ⟨ha, -⟩⟩⟩ := exec_polls_cases hx
    · exact exec_polls_undef hc (by simp [toUpWith, hv])
    · cases h.cfg.symm.trans hc'
      rw [exec_polls_atomic (v := upValue c v) hc (by simp [toUpWith, hv]) ha,
        decideDuty_toUpWith h.down (h.range v hv) (Nat.le_of_lt hDN)]
    all_goals exact absurd (ha.symm.trans h.atomic) (by decide)
  | polla =>
    obtain ⟨c', hc', ⟨hd, rfl⟩ | ⟨hd, rfl⟩ | ⟨hd, rfl⟩⟩ := exec_polla_cases hx
    · exact exec_polla_undef hc hd
    · cases h.cfg.symm.trans hc'
      exact exec_polla_true hc hd
    · exact exec_polla_false hc hd
  | tick =>
    have hc := cfg?_isSome hc
    rcases exec_tick_cases hx with ⟨h0, rfl⟩ | ⟨h0, he, rfl⟩ | ⟨h0, he, rfl⟩
    · exact exec_tick_unset hc h0
    · rw [exec_tick_event hc h0 he, ← timerEvent_toUpWith]
      rfl
    · exact exec_tick_count hc h0 he
  | rst | enable | tconf _ | treload _ | tinst | pdir _ | phigh _ | plow _ | loop _ =>
    obtain rfl : t = _ := exec_plain_cases hx
    exact withCfg_isSome (cfg?_isSome hc) _

theorem agentStep_toUpWith {a : Agent} (h : CountsDown c s) (hx : agentStep a s = .next t) :
    agentStep a (toUpWith c s) = .next (toUpWith c t) := by
  cases a with
  | irq => exact h.exec_toUpWith (i := .irq) (by simp) hx
  | clock => exact h.exec_toUpWith (i := .tick) (by simp) hx
  | main =>
    have hc := cfg?_isSome ((cfg?_toUpWith c s).trans h.cfg)
    have hfetch : progFetch (toUpWith c s) (toUpWith c s).mpc = progFetch s s.mpc := rfl
    cases hw : progFetch s s.mpc with
    | none =>
      have hlen := progFetch_eq_none.mp hw
      cases hx.symm.trans (mainStep_range (cfg?_isSome h.cfg) hlen)
      exact mainStep_range hc hlen
    | some w =>
      cases hd : decode w with
      | error e =>
        cases hx.symm.trans (mainStep_illegal (cfg?_isSome h.cfg) hw hd)
        exact mainStep_illegal hc (hfetch.trans hw) hd
      | ok i =>
        have hi : i ≠ .validate := fun hi => decode_ne_ok_of_event rfl w (hi ▸ hd)
        have hexec := mainStep_command (cfg?_isSome h.cfg) hw hd
        exact (mainStep_command hc (hfetch.trans hw) hd).trans (h.exec_toUpWith hi (hexec.symm.trans hx))

theorem agentStep_toUp (h : CountsDown c s) (a : Agent) : agentStep a (toUp s) = mapNext toUp (agentStep a s) := by
  obtain ⟨t, ht⟩ := agentStep_completes a (cfg?_isSome h.cfg)
  have hct := (agentStep_sameLaunch ht).cfg?.trans h.cfg
  rw [toUp_eq h.cfg, h.agentStep_toUpWith ht, ht, mapNext, toUp_eq hct]

theorem step_toUp (h : CountsDown c s) : step (toUp s) = mapNext toUp (step s) := by
  have hc := cfg?_isSome h.cfg
  have hpick := pick_toUpWith c s
  rw [← toUp_eq h.cfg] at hpick
  have hcup : (toUp s).cfg?.isSome = true := by rw [toUp_eq h.cfg]; exact hc
  cases hp : pick s with
  | none => rw [step_quiescent hc hp, step_quiescent hcup (by simp [hpick, hp]), mapNext]
  | some p =>
    obtain ⟨a, u⟩ := p
    obtain ⟨-, l, n, rfl⟩ := pick_some hp
    have hu : CountsDown c { s with sched := l, choices := n } := ⟨h.cfg, h.down, h.atomic, h.range⟩
    rw [step_picked hc hp, step_picked hcup (by rw [hpick, hp]; rfl), ← hu.agentStep_toUp, toUp_eq hu.cfg]

end CountsDown

/-- Settles O45: the map keeps the phase, so each step's branch, and the state it leaves, correspond. -/
theorem conventionsAgree : Obligations.ConventionsAgree := by
  intro s hi hc hd ha
  obtain ⟨c, hc⟩ := Option.isSome_iff_exists.mp hc
  have h : CountsDown c s := ⟨hc, hd, ha, fun v hv => hd ▸ hi.cntRange c v hc hv⟩
  refine ⟨fun a => ⟨h.agentStep_toUp a, ?_⟩, h.step_toUp, rfl, ?_⟩
  · rw [toUp_eq hc, mayStep_toUpWith]
  · rw [toUp_eq hc]
    rfl

end Sys2Proof.Machine
end

section
/-! The duty property (41_engine.md R129, 70_reset_and_hazards.md R244): the moves of a run by their places, the decision latched along
a stretch of it, STROBE along a stretch of it, and the one falling edge of a period. -/

namespace Sys2Proof.Machine

/-! ### The moves of a run by their places -/

/-- A list with `n + 2` members of a kind, cut at the one after the first `n` and at the next. -/
theorem exists_consecutive {α : Type} {p : α → Bool} {l : List α} {n : Nat} (h : n + 2 ≤ (l.filter p).length) :
    ∃ x a w b y, l = x ++ a :: (w ++ b :: y) ∧ p a = true ∧ p b = true ∧ (x.filter p).length = n ∧ w.filter p = [] := by
  obtain ⟨a, b, r, hr⟩ : ∃ a b r, (l.filter p).drop n = a :: b :: r := by
    match hd : (l.filter p).drop n with
    | a :: b :: r => exact ⟨a, b, r, rfl⟩
    | [_] | [] =>
      have hlen := congrArg List.length hd
      simp at hlen
      omega
  have hl := List.take_append_drop n (l.filter p)
  rw [hr] at hl
  obtain ⟨x₁, l₁, rfl, hx₁, hl₁⟩ := List.filter_eq_append_iff.mp hl.symm
  obtain ⟨x₂, l₂, rfl, hx₂, ha, hl₂⟩ := List.filter_eq_cons_iff.mp hl₁
  obtain ⟨w, y, rfl, hw, hb, -⟩ := List.filter_eq_cons_iff.mp hl₂
  refine ⟨x₁ ++ x₂, a, w, b, y, by simp, ha, hb, ?_, List.filter_eq_nil_iff.mpr hw⟩
  rw [List.filter_append, List.filter_eq_nil_iff.mpr hx₂, hx₁, List.append_nil, List.length_take]
  omega

/-- A list with a member of a kind, cut at the first. -/
theorem exists_first {α : Type} {p : α → Bool} {l : List α} (h : ∃ m ∈ l, p m = true) :
    ∃ x f y, l = x ++ f :: y ∧ p f = true ∧ ∀ m ∈ x, p m = false := by
  obtain ⟨f, hf⟩ := Option.isSome_iff_exists.mp (List.find?_isSome.mpr h)
  obtain ⟨hpf, x, y, hl, hx⟩ := List.find?_eq_some_iff_append.mp hf
  exact ⟨x, f, y, hl, hpf, by simpa using hx⟩

theorem moveAt_length_append (f : Move → Bool) (x : List Move) (m : Move) (y : List Move) :
    moveAt f (x ++ m :: y) x.length = f m := by
  simp [moveAt]

theorem exists_mem_of_moveAt {f : Move → Bool} {x y : List Move} {i : Nat} (hi : i < x.length)
    (h : moveAt f (x ++ y) i = true) : ∃ m ∈ x, f m = true := by
  rw [moveAt, List.getElem?_append_left hi, List.getElem?_eq_getElem hi] at h
  exact ⟨_, List.getElem_mem hi, h⟩

theorem moveAt_append_right (f : Move → Bool) (x y : List Move) (k : Nat) :
    moveAt f (x ++ y) (x.length + k) = moveAt f y k := by
  rw [moveAt, moveAt, List.getElem?_append_right (Nat.le_add_right ..), Nat.add_sub_cancel_left]

theorem exists_append_cons_of_lt {α : Type} {l : List α} {i : Nat} (h : i < l.length) :
    ∃ x m y, l = x ++ m :: y ∧ x.length = i :=
  ⟨l.take i, l[i], l.drop (i + 1), by simp, by simp; omega⟩

/-- PR1, of the moves `w` between two consecutive handler steps (R244). -/
theorem PR1.exists_poll {x w y : List Move} {a b : Move} (h : PR1 (x ++ a :: (w ++ b :: y))) (ha : a.isIrq = true)
    (hb : b.isIrq = true) (hw : w.filter Move.isIrq = []) :
    ∃ u q z, w = u ++ q :: z ∧ (∃ p ∈ u, p.endsPolls = true) ∧ q.isPolla = true := by
  have hbefore := moveAt_length_append Move.isIrq x a (w ++ b :: y)
  have hafter := moveAt_length_append Move.isIrq (x ++ a :: w) b y
  have hbetween := fun f k => moveAt_append_right f (x ++ [a]) (w ++ b :: y) k
  simp only [List.append_assoc, List.cons_append, List.nil_append, List.length_append, List.length_cons,
    List.length_nil] at hafter hbetween
  have hnone : noneBetween Move.isIrq (x ++ a :: (w ++ b :: y)) x.length (x.length + (w.length + 1)) = true := by
    refine decide_eq_true fun k hk hxk => Bool.eq_false_iff.mpr fun hat => ?_
    obtain ⟨k, rfl⟩ := Nat.exists_eq_add_of_lt hxk
    rw [Nat.add_right_comm, hbetween] at hat
    obtain ⟨m, hm, hirq⟩ := exists_mem_of_moveAt (by omega) hat
    exact List.filter_eq_nil_iff.mp hw m hm hirq
  have hpoll := h (x.length + (w.length + 1)) (by simp) x.length (by omega) (hbefore.trans ha) (hafter.trans hb) hnone
  obtain ⟨q, hq, p, hp, hxp, hpolls, hpolla⟩ := of_decide_eq_true hpoll
  obtain ⟨p, rfl⟩ := Nat.exists_eq_add_of_lt hxp
  obtain ⟨q, rfl⟩ := Nat.exists_eq_add_of_lt (hxp.trans hp)
  rw [Nat.add_right_comm, hbetween] at hpolls hpolla
  obtain ⟨u, m, z, rfl, rfl⟩ := exists_append_cons_of_lt (show q < w.length by omega)
  rw [List.append_assoc] at hpolls hpolla
  rw [List.cons_append, moveAt_length_append] at hpolla
  exact ⟨u, m, z, rfl, exists_mem_of_moveAt (by omega) hpolls, hpolla⟩

/-- PR1, of the moves after the first `n` handler steps: a POLLS and then a POLLA come before the next. -/
theorem PR1.exists_poll_after {ms : List Move} {n : Nat} (h : PR1 ms) (hn : 1 ≤ n)
    (hlen : n + 1 ≤ (ms.filter Move.isIrq).length) :
    ∃ x a u q y, ms = x ++ a :: (u ++ q :: y) ∧ ((x ++ [a]).filter Move.isIrq).length = n ∧ u.filter Move.isIrq = [] ∧
      (∃ p ∈ u, p.endsPolls = true) ∧ q.isPolla = true ∧ ∃ b ∈ y, b.isIrq = true := by
  obtain ⟨x, a, w, b, y, rfl, ha, hb, hx, hw⟩ := exists_consecutive (p := Move.isIrq) (l := ms) (n := n - 1) (by omega)
  obtain ⟨u, q, z, rfl, hp, hq⟩ := h.exists_poll ha hb hw
  refine ⟨x, a, u, q, z ++ b :: y, by simp, ?_, ?_, hp, hq, b, by simp, hb⟩
  · simp [ha, hx]
    omega
  · rw [List.filter_append, List.append_eq_nil_iff] at hw
    exact hw.1

/-! ### The decision latched along a stretch of a run -/

theorem Move.endsPolls_command {m : Move} (h : m.endsPolls = true) : m.command = some .polls := by
  simp only [Move.endsPolls, Bool.and_eq_true, decide_eq_true_eq] at h
  exact h.1.1

theorem Move.isPolla_command {m : Move} (h : m.isPolla = true) : m.command = some .polla := by
  simp only [Move.isPolla, Bool.and_eq_true, decide_eq_true_eq] at h
  exact h.1

theorem Move.isIrq_of_command {m : Move} {i : Instr} (h : m.command = some i) : m.isIrq = false := by
  cases hm : m.agent <;> simp [Move.command, Move.isIrq, hm] at h ⊢

/-- A move's command is what its agent executes (R140). -/
theorem exec_of_command {a : Agent} {s t : State} {i : Instr} (hx : agentStep a s = .next t)
    (h : (Move.mk a s t).command = some i) : exec i s = .next t := by
  cases a with
  | irq | clock => cases h
  | main =>
    obtain ⟨w, hw, hd⟩ := nextCommand_eq_some.mp h
    obtain ⟨c, hc, -⟩ := withCfg_next hx
    exact (mainStep_command (cfg?_isSome hc) hw hd).symm.trans hx

theorem run_concat {s t : State} {ms : List Move} {m : Move} (h : Run s (ms ++ [m]) t) :
    Run s ms m.before ∧ Admits m.agent m.before m.after ∧ t = m.after := by
  obtain ⟨hms, hm, hstop⟩ := run_append_cons.mp h
  cases hstop
  exact ⟨hms, hm, rfl⟩

/-- After a stretch of a run with a completed POLLS the latch holds the decision at a phase of the stretch. -/
theorem PhaseAt.pdec_of_run {c : Cfg} {k : Nat} {s t : State} {ms : List Move} (h : PhaseAt c k s)
    (ha : s.params.readAtomic = true) (hr : Run s ms t) (hm : ∀ m ∈ ms, m.restarts = false)
    (hlt : k + (ms.filter Move.isIrq).length < c.N.toNat) (hp : ∃ m ∈ ms, m.endsPolls = true) :
    ∃ j, k ≤ j ∧ j ≤ k + (ms.filter Move.isIrq).length ∧ t.pdec = some (decide (c.D.toNat ≤ j)) := by
  induction ms using List.reverseRecOn generalizing t with
  | nil => simp at hp
  | append_singleton ms m ih =>
    obtain ⟨hms, ⟨-, -, hx⟩, rfl⟩ := run_concat hr
    rw [List.forall_mem_append] at hm
    rw [List.filter_append, List.length_append] at hlt ⊢
    have hbefore : k + (ms.filter Move.isIrq).length < c.N.toNat := by omega
    by_cases hpolls : m.command = some .polls
    · have hphase := (h.of_run_lt hms hm.1 hbefore).1
      obtain ⟨u, hu, hpdec⟩ := hphase.exec_polls ((run_sameLaunch hms).1 ▸ ha)
      cases hu.symm.trans (exec_of_command hx hpolls)
      exact ⟨_, Nat.le_add_right _ _, by omega, hpdec⟩
    · have hin : ∃ m ∈ ms, m.endsPolls = true := by
        obtain ⟨n, hn, he⟩ := hp
        rcases List.mem_append.mp hn with hn | hn
        · exact ⟨n, hn, he⟩
        · cases List.mem_singleton.mp hn
          exact absurd (Move.endsPolls_command he) hpolls
      obtain ⟨j, hkj, hj, hpdec⟩ := ih hms hm.1 hbefore hin
      exact ⟨j, hkj, by omega, (agentStep_pdec_eq hx hpolls).trans hpdec⟩

/-! ### STROBE along a stretch of a run -/

/-- Under the discipline STROBE leaves 1 only by a falling edge, or by INIT or RST. -/
theorem strobe_eq_one_of_agentStep {a : Agent} {s t : State} {c : Cfg} (hc : s.cfg? = some c) (hd : Disciplined s)
    (hx : agentStep a s = .next t) (hr : (Move.mk a s t).restarts = false) (h1 : strobe s = .one)
    (hf : fallingEdge s t = false) : strobe t = .one := by
  rcases agentStep_strobe hc hd hx with ⟨-, -, hdir, hlvl⟩ | ⟨-, -, rfl⟩ | ⟨h, -⟩ | hs
  · obtain ⟨hmask, hout, -⟩ := (strobe_eq_one hc).mp h1
    rw [strobe_eq_one ((agentStep_sameLaunch hx).cfg?.trans hc), hdir, hlvl]
    exact ⟨hmask, hout, or_and_mask s.lvl c.mask⟩
  · exact absurd ((fallingEdge_driveLow hc).mpr h1) (by simp [hf])
  · exact absurd h (by simp [hr])
  · exact hs.trans h1

theorem strobe_eq_one_of_run {s t : State} {c : Cfg} {ms : List Move} (hr : Run s ms t) (hc : s.cfg? = some c)
    (hd : Disciplined s) (hm : ∀ m ∈ ms, m.restarts = false) (h1 : strobe s = .one)
    (hf : ∀ m ∈ ms, fallingEdge m.before m.after = false) : strobe t = .one := by
  induction hr with
  | stop s => exact h1
  | move h _ ih =>
    obtain ⟨-, -, hx⟩ := h
    obtain ⟨hm₁, hms⟩ := List.forall_mem_cons.mp hm
    obtain ⟨hf₁, hfs⟩ := List.forall_mem_cons.mp hf
    have hl := agentStep_sameLaunch hx
    exact ih (hl.cfg?.trans hc) (hd.of_sameLaunch hl) hms (strobe_eq_one_of_agentStep hc hd hx hm₁ h1 hf₁) hfs

/-- Under the discipline STROBE does not come to 1 before a Boundary. -/
theorem strobe_ne_one_of_run {s t : State} {ms : List Move} (hr : Run s ms t) (hd : Disciplined s) (h1 : strobe s ≠ .one)
    (hb : ∀ m ∈ ms, m.isBoundary = false) : strobe t ≠ .one := by
  induction hr with
  | stop s => exact h1
  | move h _ ih =>
    obtain ⟨hb₁, hbs⟩ := List.forall_mem_cons.mp hb
    refine ih (hd.of_sameLaunch (agentStep_sameLaunch h.2.2)) (fun h1' => ?_) hbs
    have hbound := onlyBoundariesRaiseTheStrobe _ _ _ hd h (risingEdge_eq_true.mpr ⟨h1', h1⟩)
    exact absurd (Move.isBoundary_iff.mpr hbound) (ne_true_of_eq_false hb₁)

/-- Under the discipline, without INIT and RST, a falling edge is a completed POLLA's, the latched decision being true. -/
theorem isPolla_of_fallingEdge {m : Move} {c : Cfg} (hc : m.before.cfg? = some c) (hd : Disciplined m.before)
    (h : Admits m.agent m.before m.after) (hr : m.restarts = false) (hf : fallingEdge m.before m.after = true) :
    m.isPolla = true ∧ m.before.pdec = some true := by
  obtain ⟨-, hmay, hx⟩ := h
  obtain ⟨h0, h1⟩ := fallingEdge_eq_true.mp hf
  have hct := (agentStep_sameLaunch hx).cfg?.trans hc
  rcases agentStep_strobe hc hd hx with ⟨-, -, hdir, hlvl⟩ | ⟨hcmd, hpdec, hafter⟩ | ⟨h, -⟩ | hs
  · obtain ⟨hmask, -, hlow⟩ := (strobe_eq_zero hct).mp h0
    rw [hlvl, or_and_mask] at hlow
    exact absurd hlow hmask
  · have hrun := some_mayStep.mp ⟨_, hmay⟩
    exact ⟨by simp [Move.isPolla, hcmd, hafter, hrun], hpdec⟩
  · exact absurd h (by simp [hr])
  · simp [← hs, h0] at h1

/-! ### The falling edge of a period -/

/-- The start of a period with its pulse: just after a Boundary, STROBE at 1, an atomic read, the main program off the strobe pins. -/
structure PulseStart (c : Cfg) (s : State) : Prop where
  phase : PhaseAt c 0 s
  atomic : s.params.readAtomic = true
  disciplined : Disciplined s
  high : strobe s = .one

namespace PulseStart

variable {c : Cfg} {s t : State}

/-- A POLLS and then a POLLA completed at phase D leave a falling edge behind them. -/
theorem exists_fallingEdge {x u y : List Move} {a q : Move} (h : PulseStart c s) (hr : Run s (x ++ a :: (u ++ q :: y)) t)
    (hm : ∀ m ∈ x ++ a :: u, m.restarts = false) (hD : ((x ++ [a]).filter Move.isIrq).length = c.D.toNat)
    (hu : u.filter Move.isIrq = []) (hp : ∃ p ∈ u, p.endsPolls = true) (hq : q.isPolla = true) :
    ∃ m ∈ x ++ a :: (u ++ [q]), fallingEdge m.before m.after = true := by
  by_contra! hf
  obtain ⟨-, hDN⟩ := D_bounds_of_cfg? h.phase.cfg
  obtain ⟨hx, ha, hr⟩ := run_append_cons.mp hr
  obtain ⟨hu', ⟨-, -, hxq⟩, -⟩ := run_append_cons.mp hr
  have hxa : Run s (x ++ [a]) a.after := run_append_cons.mpr ⟨hx, ha, .stop _⟩
  have hbefore : Run s (x ++ a :: u) q.before := run_append_cons.mpr ⟨hx, ha, hu'⟩
  have hc := (run_sameLaunch hbefore).cfg?.trans h.phase.cfg
  have hhigh : strobe q.before = .one :=
    strobe_eq_one_of_run hbefore h.phase.cfg h.disciplined hm h.high
      (fun m hmem => Bool.eq_false_iff.mpr (hf m (by simp at hmem ⊢; tauto)))
  have hphase := (h.phase.of_run_lt hxa (fun m hmem => hm m (by simp at hmem ⊢; tauto)) (by omega)).1
  rw [hD, Nat.zero_add] at hphase
  obtain ⟨j, hj, -, hpdec⟩ := hphase.pdec_of_run ((run_sameLaunch hxa).1 ▸ h.atomic) hu'
    (fun m hmem => hm m (by simp [hmem])) (by simpa [hu]) hp
  rw [decide_eq_true hj] at hpdec
  have hafter := (exec_of_command hxq (Move.isPolla_command hq)).symm.trans (exec_polla_true hc hpdec)
  exact hf q (by simp) (Host.Outcome.next.inj hafter ▸ (fallingEdge_driveLow hc).mpr hhigh)

/-- A falling edge after at most D handler steps, with a POLLS completed before it, is a POLLA's after exactly D, and no Boundary comes
before it. -/
theorem fallingEdge_at_phase_D {x y : List Move} {f : Move} (h : PulseStart c s) (hr : Run s (x ++ f :: y) t)
    (hm : ∀ m ∈ x ++ f :: y, m.restarts = false) (hf : fallingEdge f.before f.after = true)
    (hx : (x.filter Move.isIrq).length ≤ c.D.toNat) (hp : f.isPolla = true → ∃ p ∈ x, p.endsPolls = true) :
    f.isPolla = true ∧ (x.filter Move.isIrq).length = c.D.toNat ∧ ∀ m ∈ x, m.isBoundary = false := by
  obtain ⟨-, hDN⟩ := D_bounds_of_cfg? h.phase.cfg
  obtain ⟨hrx, ha, -⟩ := run_append_cons.mp hr
  obtain ⟨hmx, hmf⟩ := List.forall_mem_append.mp hm
  have hlt : 0 + (x.filter Move.isIrq).length < c.N.toNat := by omega
  have hl := run_sameLaunch hrx
  obtain ⟨hpolla, hpdec⟩ := isPolla_of_fallingEdge (hl.cfg?.trans h.phase.cfg) (h.disciplined.of_sameLaunch hl) ha
    (hmf f List.mem_cons_self) hf
  obtain ⟨j, -, hj, hpdec'⟩ := h.phase.pdec_of_run h.atomic hrx hmx hlt (hp hpolla)
  have hDj : c.D.toNat ≤ j := by simpa [hpdec] using hpdec'
  exact ⟨hpolla, by omega, (h.phase.of_run_lt hrx hmx hlt).2⟩

end PulseStart

/-- Under the discipline no falling edge comes from STROBE at 0 before a Boundary has come. -/
theorem no_fallingEdge_after {s t : State} {m : Move} {z w : List Move} (hr : Run s (z ++ m :: w) t) (hd : Disciplined s)
    (h0 : strobe s = .zero) (hb : ∀ n ∈ z, n.isBoundary = false) : fallingEdge m.before m.after = false := by
  obtain ⟨hz, -, -⟩ := run_append_cons.mp hr
  have hne := strobe_ne_one_of_run hz hd (by simp [h0]) hb
  exact Bool.eq_false_iff.mpr fun hf => hne (fallingEdge_eq_true.mp hf).2

/-- Settles O44: the edge is the first falling one up to the POLLA that PR1 gives between the D-th handler step and the next. -/
theorem dutyProperty : Obligations.DutyProperty := by
  intro s t ms c _ hr hc ha hd hm hv hhigh hpolla hpr1 hirqs
  have h : PulseStart c s := ⟨.of_initv hc hv, ha, hd, hhigh⟩
  obtain ⟨hD, -⟩ := D_bounds_of_cfg? hc
  obtain ⟨x₀, a, u, q, y₀, hms, hphase, hu, hpoll, hq, b, hb, hirqb⟩ := hpr1.exists_poll_after hD hirqs
  have hr' := hms ▸ hr
  obtain ⟨x, f, v, hcut, hf, hxf⟩ := exists_first
    (h.exists_fallingEdge hr' (fun m hmem => hm m (by simp [hms] at hmem ⊢; tauto)) hphase hu hpoll hq)
  -- the run, cut at its first falling edge
  obtain rfl : ms = x ++ f :: (v ++ y₀) := by
    have := congrArg (· ++ y₀) hcut
    simpa [hms] using this
  have hx : (x.filter Move.isIrq).length ≤ c.D.toNat := by
    have hcount := congrArg (fun l => (l.filter Move.isIrq).length) hcut
    have hqirq := Move.isIrq_of_command (Move.isPolla_command hq)
    simp [hu, hqirq, List.filter_cons] at hcount hphase
    omega
  obtain ⟨hfpolla, hxD, hbound⟩ := h.fallingEdge_at_phase_D hr hm hf hx fun hfp => by
    obtain ⟨p, hp, hat⟩ := hpolla x.length (by simp) ((moveAt_length_append ..).trans hfp)
    exact exists_mem_of_moveAt hp hat
  obtain ⟨hrx, ⟨-, -, hxf'⟩, hrest⟩ := run_append_cons.mp hr
  have hdf := (hd.of_sameLaunch (run_sameLaunch hrx)).of_sameLaunch (agentStep_sameLaunch hxf')
  refine ⟨x, f, v ++ y₀, rfl, hfpolla, hf, hxD, ?_, fun m hmem => ⟨hbound m hmem, hxf m hmem⟩, ?_⟩
  · exact List.length_pos_of_mem (List.mem_filter.mpr ⟨by simp [hb], hirqb⟩)
  · rintro z m w hy hb
    exact no_fallingEdge_after (hy ▸ hrest) hdf (fallingEdge_eq_true.mp hf).1 hb

end Sys2Proof.Machine
end

section
/-! The lifecycle commands RST, INIT, ENABLE and LOOP, and the MAIN step that fetches them (42_lifecycle.md). -/

namespace Sys2Proof.Machine

/-! ### Stop faults -/

/-- A stop fault's pair is added, the machine is stopped, and nothing else changes (R200, R201). -/
theorem recordFault_stops {e : FaultEntry} (he : e.isStop = true) (s : State) :
    AddsFault e s (s.recordFault e) ∧ (s.recordFault e).stopped = true ∧ OnlyChanges [.fault] s (s.recordFault e) :=
  ⟨addsFault_recordFault s e, by simp [he], onlyChanges_recordFault s e⟩

/-- Settles O19: the operand is compared first, and the stop fault is all that a mismatch leaves behind. -/
theorem initMismatchStops : Obligations.InitMismatchStops := by
  intro s c x hc hx
  exact ⟨_, exec_init_mismatch hc hx, recordFault_stops rfl s⟩

/-- Settles O24: the decoder's rejection ends MAIN's step in the stop fault. -/
theorem illegalWordStops : Obligations.IllegalWordStops := by
  intro s w e hc hw hd
  exact ⟨_, mainStep_illegal hc hw hd, recordFault_stops rfl s⟩

/-! ### RST -/

theorem strobe_eq_off {s : State} {c : Cfg} (hc : s.cfg? = some c) :
    strobe s = .off ↔
      c.mask = 0 ∨ s.dir &&& c.mask ≠ c.mask ∨ (s.lvl &&& c.mask ≠ c.mask ∧ s.lvl &&& c.mask ≠ 0) :=
  (strobeByMasks s c hc).2.2

/-- With every pin an input STROBE is OFF (R36). -/
theorem strobe_eq_off_of_dir {s : State} (hc : s.cfg?.isSome = true) (hd : s.dir = 0) : strobe s = .off := by
  obtain ⟨c, hc⟩ := Option.isSome_iff_exists.mp hc
  rw [strobe_eq_off hc, hd]
  by_cases hm : c.mask = 0
  · exact .inl hm
  · exact .inr (.inl fun h => hm (h.symm.trans BitVec.zero_and))

/-- Settles O16: the registers RST writes it writes with constants, so a second RST finds them there. -/
theorem rstResetsPeripherals : Obligations.RstResetsPeripherals := by
  refine ⟨rfl, fun s hc => ?_, fun s t u ht hu => ?_⟩
  · refine ⟨_, exec_rst hc, rfl, rfl, rfl, rfl, rfl, rfl, rfl, rfl, rfl, strobe_eq_off_of_dir hc rfl, ?_⟩
    simp [onlyChanges_iff, resetPeripherals]
  · obtain rfl : t = _ := exec_plain_cases ht
    obtain rfl : u = _ := exec_plain_cases hu
    simp [onlyChanges_iff, resetPeripherals]

/-! ### INIT -/

/-- The registers INIT writes, each from the configuration, its own value before, or a constant (R142). -/
theorem initialise_eq (c : Cfg) (s : State) :
    initialise c s =
      { s with
        gie := false
        cnt := some (initv s.params.countDir c)
        lvl := s.lvl &&& ~~~c.mask
        dir := s.dir ||| c.mask
        tsel := c.sel
        trld := c.reload
        tcnt := 0
        pend := false
        tie := true
        mpc := s.mpc + 1 } := rfl

/-- INIT leaves the strobe pins outputs at 0 (R36, R142). -/
theorem strobe_initialise {s : State} {c : Cfg} (hc : s.cfg? = some c) (hm : c.mask ≠ 0) : strobe (initialise c s) = .zero :=
  (strobe_eq_zero (s := initialise c s) hc).mpr ⟨hm, or_and_mask s.dir c.mask, and_not_and_mask s.lvl c.mask⟩

/-- Settles O18, by the two outcomes of comparing the operand with the validated selector. -/
theorem initProgramsTheEngine : Obligations.InitProgramsTheEngine := by
  refine ⟨fun x h1 h5 => ?_, fun s c hc => ?_, fun s c x hc hx => ?_⟩
  · rw [← Asm.encode_init]
    exact decode_encode (by simp [Instr.wf, h1, h5]) rfl
  · have hlvl : s.lvl &&& ~~~c.mask &&& ~~~c.mask = s.lvl &&& ~~~c.mask := by rw [BitVec.and_assoc, BitVec.and_self]
    have hdir : (s.dir ||| c.mask) &&& ~~~c.mask = s.dir &&& ~~~c.mask := or_and_of_disjoint (by simp) s.dir
    refine ⟨_, exec_init_match hc, rfl, fun hd => ?_, fun hd => ?_, rfl, rfl, rfl, rfl, rfl, rfl, rfl, rfl, hlvl, hdir,
      strobe_initialise hc, ?_⟩
    · simp [initialise_eq, initv, hd]
    · simp [initialise_eq, initv, hd]
    · simp [onlyChanges_iff, initialise_eq]
  · obtain ⟨hadds, -, honly⟩ := recordFault_stops (e := .cfgMismatch s.mpc x) rfl s
    exact ⟨_, exec_init_mismatch hc hx, hadds, honly⟩

/-- The collaborator commands of R147 in a row, from the state with GIE, CNT and PEND written, lead where INIT leads but for MPC, which
each of the five advances. -/
theorem execAll_initSequence {s : State} {c : Cfg} (hc : s.cfg?.isSome = true) :
    ∃ u, execAll [.plow c.mask, .pdir c.mask, .tconf c.sel, .treload c.reload, .tinst]
        { s with gie := false, cnt := some (initv s.params.countDir c), pend := false } = .next u ∧
      OnlyChanges [.mpc] u (initialise c s) := by
  refine ⟨_, execAll_cons (exec_plow ?_ _) <| execAll_cons (exec_pdir ?_ _) <| execAll_cons (exec_tconf ?_ _) <|
    execAll_cons (exec_treload ?_ _) <| execAll_single (exec_tinst ?_), ?frame⟩
  case frame => simp [onlyChanges_iff, initialise_eq]
  -- no command of the five writes what the configuration is read off
  all_goals exact hc

/-- A tick leaves a pending event pending (R162, R163). -/
theorem exec_tick_pend {s t : State} (h : exec .tick s = .next t) (hp : s.pend = true) : t.pend = true := by
  rcases exec_tick_cases h with ⟨-, rfl⟩ | ⟨-, -, rfl⟩ | ⟨-, -, rfl⟩
  · exact hp
  · simp [timerEvent_eq]
  · exact hp

/-- Settles O20: both ways lead to the same registers but MPC; of the steps listed for CNT and PEND, IRQ is no command and a tick clears
no event. -/
theorem initIsACommandSequence : Obligations.InitIsACommandSequence := by
  refine ⟨fun s c hc => ?_, fun i s t h => ?_⟩
  · obtain ⟨u, hu, honly⟩ := execAll_initSequence (cfg?_isSome hc)
    exact ⟨_, u, exec_init_match hc, hu, rfl, honly⟩
  · obtain ⟨hcnt, -, -, -, -, -, -, hpend, -⟩ := onlyTheListedStepsWrite i s t h
    refine ⟨fun hi hne => ?_, fun hs ht => ?_⟩
    · rcases hcnt hne with rfl | hinit
      · cases hi
      · exact hinit
    · rcases hpend (by simp [hs, ht]) with rfl | hirq | hrst | hinit
      · exact absurd (exec_tick_pend h hs) (by simp [ht])
      · exact .inr (.inl hirq)
      · exact .inl hrst
      · exact .inr (.inr hinit)

/-! ### ENABLE -/

/-- Settles O21: with TIE, PEND and now GIE set the interrupt is deliverable; of the steps listed for GIE, ENABLE only sets it. -/
theorem enableSetsGie : Obligations.EnableSetsGie := by
  refine ⟨rfl, fun s hc => ?_, fun i s t h hs ht => ?_⟩
  · refine ⟨_, exec_enable hc, rfl, rfl, by simp [onlyChanges_iff], fun hg => by simp [onlyChanges_iff, hg], fun hst htie hp => ?_⟩
    have hdel : State.deliverable (State.advance { s with gie := true }) = true :=
      deliverable_iff.mpr ⟨hst, rfl, htie, hp⟩
    exact ⟨hdel, by simp [mayStep, hdel]⟩
  · obtain ⟨-, -, -, -, -, hgie, -⟩ := onlyTheListedStepsWrite i s t h
    rcases hgie (by simp [hs, ht]) with rfl | hrst | hinit
    · obtain rfl : t = _ := exec_plain_cases h
      cases ht
    · exact .inl hrst
    · exact .inr hinit

/-! ### LOOP -/

theorem encode_loop (t : Byte) : encode (.loop t) = 0x4000#16 ||| t.setWidth 16 := by
  simpa [Instr.opcode, Instr.operand] using Asm.encode_eq_or (.loop t)

theorem loopTarget_toNat (t : Byte) : (loopTarget t).toNat = t.toNat :=
  BitVec.toNat_setWidth_of_le (by decide)

/-- Settles O22: a byte fits the index whole, and the fetch there is that of any other index. -/
theorem loopSetsTheIndex : Obligations.LoopSetsTheIndex := by
  refine ⟨fun t => ?_, fun t s hc => ?_⟩
  · rw [← encode_loop]
    exact decode_encode rfl rfl
  · refine ⟨_, exec_loop hc t, loopTarget_toNat t, by simp [onlyChanges_iff], fun hlen => ?_⟩
    have hpast : s.prog.length ≤ (loopTarget t).toNat := (loopTarget_toNat t).symm ▸ hlen
    obtain ⟨v, hv, hadds, -, honly⟩ := fetchStopsPastTheEnd.2 { s with mpc := loopTarget t } hc hpast
    exact ⟨v, hv, hadds, honly⟩

/-! ### The step of the machine -/

/-- Taking the agent's choice writes the scheduling fields alone (R210, log entry 5). -/
theorem pick_keeps {s u : State} {a : Agent} (h : pick s = some (a, u)) : (∀ r : Reg, r.same s u) ∧ SameLaunch s u := by
  obtain ⟨-, l, n, rfl⟩ := pick_some h
  exact ⟨Reg.forall_iff.mpr (by simp [Reg.same]), SameLaunch.refl s⟩

/-- Settles O60: the step is the picked agent's, and what MAIN fetches and decodes does not depend on the choice. -/
theorem stepRunsTheDecodedInstruction : Obligations.StepRunsTheDecodedInstruction := by
  refine ⟨fun s u w i hc hp hw hd => ?_, fun s u hc hp => step_picked hc hp, fun s u hc hp => step_picked hc hp,
    fun s hv => step_unbuilt hv, fun s u a hp => pick_keeps hp⟩
  rw [step_picked hc hp]
  obtain ⟨-, l, n, rfl⟩ := pick_some hp
  exact mainStep_command hc hw hd

end Sys2Proof.Machine
end

section
/-! The timer: TCONF, TRELOAD, TINST and TICK, and the timer events of a stretch of a run (43_timer.md R160 to R166). -/

namespace Sys2Proof.Machine

/-! ### The timer as a phase -/

/-- The commands that write the timer's period or its count (R166). -/
def WritesTimer (i : Instr) : Prop := i = .rst ∨ (∃ x, i = .init x ∨ i = .tconf x) ∨ ∃ v, i = .treload v

theorem Move.retimes_iff {m : Move} : m.retimes = true ↔ ∃ i, m.command = some i ∧ WritesTimer i := by
  unfold Move.retimes Move.restarts
  cases m.command with
  | none => simp
  | some i => cases i <;> simp [WritesTimer]

/-- The period and the count are written by a tick and by the commands named for it only (R40). -/
theorem exec_timer_eq {i : Instr} {s t : State} (hx : exec i s = .next t) (ht : i ≠ .tick) (hw : ¬ WritesTimer i) :
    t.trld = s.trld ∧ t.tcnt = s.tcnt := by
  obtain ⟨-, -, -, -, -, -, -, -, -, htrld, htcnt, -⟩ := onlyTheListedStepsWrite i s t hx
  constructor
  · by_contra hne
    exact hw ((htrld hne).imp_right (Or.imp_left fun ⟨x, hi⟩ => ⟨x, .inl hi⟩))
  · by_contra hne
    exact (htcnt hne).elim ht hw

theorem agentStep_timer_eq {a : Agent} {s t : State} (h : agentStep a s = .next t) (ha : a ≠ .clock)
    (hr : (Move.mk a s t).retimes = false) : t.trld = s.trld ∧ t.tcnt = s.tcnt := by
  by_cases hirq : a = .irq
  · subst hirq
    exact exec_timer_eq (i := .irq) h (by simp) (by simp [WritesTimer])
  rcases agentStep_cases_of_ne_irq h hirq with ⟨e, rfl⟩ | ⟨hclock, -⟩ | ⟨rfl, i, hi, hn, hx⟩
  · exact ⟨rfl, rfl⟩
  · exact absurd hclock ha
  · have hcommand : (Move.mk .main s t).command = some i := hn
    refine exec_timer_eq hx (by rintro rfl; cases hi) fun hw => ?_
    exact absurd (Move.retimes_iff.mpr ⟨i, hcommand, hw⟩) (ne_true_of_eq_false hr)

/-- A count below another does not wrap. -/
theorem toNat_add_one_of_lt {x y : Byte} (h : x.toNat + 1 < y.toNat) : (x + 1).toNat = x.toNat + 1 :=
  BitVec.toNat_add_of_lt (h.trans y.isLt)

/-- The timer counts periods of `r` ticks and stands at its count `k`, below the period (R32). -/
structure TimerAt (r : Byte) (k : Nat) (s : State) : Prop where
  period : s.trld = r
  count : s.tcnt.toNat = k
  below : k < r.toNat

namespace TimerAt

variable {r : Byte} {k : Nat} {s t : State}

theorem period_ne_zero (h : TimerAt r k s) : r ≠ 0 := by
  rintro rfl
  exact absurd h.below (Nat.not_lt_zero k)

/-- A tick moves the count on by one, round the circle of the period (R162). -/
theorem exec_tick (h : TimerAt r k s) (hx : exec .tick s = .next t) : TimerAt r ((k + 1) % r.toNat) t := by
  have hlt := Nat.mod_lt (k + 1) (Nat.zero_lt_of_lt h.below)
  rcases exec_tick_cases hx with ⟨h0, -⟩ | ⟨-, he, rfl⟩ | ⟨-, he, rfl⟩
  · exact absurd (h.period.symm.trans h0) h.period_ne_zero
  · have hend : k + 1 = r.toNat := Nat.le_antisymm h.below (h.period ▸ h.count ▸ he)
    refine ⟨by simpa [timerEvent_eq] using h.period, ?_, hlt⟩
    simp [timerEvent_eq, hend]
  · have hcount : (s.tcnt + 1).toNat = k + 1 := h.count ▸ toNat_add_one_of_lt he
    rw [h.period, h.count] at he
    exact ⟨h.period, by rw [Nat.mod_eq_of_lt he, ← hcount], hlt⟩

/-- A tick is a timer event exactly when it completes a circle of the period (R162, R163). -/
theorem toNat_isTimerEvent (h : TimerAt r k s) : (Move.mk .clock s t).isTimerEvent.toNat = (k + 1) / r.toNat := by
  have hevent : (Move.mk .clock s t).isTimerEvent = decide (r.toNat ≤ k + 1) := by
    simpa [Move.isTimerEvent, Move.isTick, h.period, h.count] using fun _ => h.period_ne_zero
  rw [hevent]
  rcases Nat.lt_or_ge (k + 1) r.toNat with hlt | hge
  · simp [Nat.div_eq_of_lt hlt, hlt]
  · have hend : k + 1 = r.toNat := Nat.le_antisymm h.below hge
    simp [hend, Nat.div_self (Nat.zero_lt_of_lt h.below)]

/-- Between ticks the timer stays, without TCONF, TRELOAD, INIT and RST. -/
theorem of_ne_clock {a : Agent} (h : TimerAt r k s) (hx : agentStep a s = .next t) (ha : a ≠ .clock)
    (hr : (Move.mk a s t).retimes = false) : TimerAt r k t := by
  obtain ⟨htrld, htcnt⟩ := agentStep_timer_eq hx ha hr
  exact ⟨htrld.trans h.period, htcnt ▸ h.count, h.below⟩

/-- A stretch of a run with `n` ticks moves the count on by `n`, and each full circle of the period is one timer event (R166). -/
theorem of_run {ms : List Move} (h : TimerAt r k s) (hr : Run s ms t) (hm : ∀ m ∈ ms, m.retimes = false) :
    TimerAt r ((k + (ms.filter Move.isTick).length) % r.toNat) t ∧
    (ms.filter Move.isTimerEvent).length = (k + (ms.filter Move.isTick).length) / r.toNat := by
  induction hr generalizing k with
  | stop s => simp [Nat.mod_eq_of_lt h.below, Nat.div_eq_of_lt h.below, h]
  | @move s t u a ms ha _ ih =>
    obtain ⟨-, -, hx⟩ := ha
    obtain ⟨hm₁, hms⟩ := List.forall_mem_cons.mp hm
    by_cases hclock : a = .clock
    · subst hclock
      obtain ⟨htimer, hcount⟩ := ih (h.exec_tick hx) hms
      have hticks : ((Move.mk .clock s t :: ms).filter Move.isTick).length = 1 + (ms.filter Move.isTick).length := by
        simp [Move.isTick, Nat.add_comm]
      have hevents : ((Move.mk .clock s t :: ms).filter Move.isTimerEvent).length =
          (Move.mk .clock s t).isTimerEvent.toNat + (ms.filter Move.isTimerEvent).length := by
        cases he : (Move.mk .clock s t).isTimerEvent <;> simp [he, Nat.add_comm]
      rw [hticks, hevents, h.toNat_isTimerEvent, hcount, ← Nat.add_assoc, add_div_add_mod_div (Nat.zero_lt_of_lt h.below)]
      exact ⟨Nat.mod_add_mod .. ▸ htimer, rfl⟩
    · obtain ⟨htimer, hcount⟩ := ih (h.of_ne_clock hx hclock hm₁) hms
      simpa [Move.isTick, Move.isTimerEvent, hclock] using ⟨htimer, hcount⟩

end TimerAt

/-- Settles O31: the count after the stretch is its ticks round the circle of the period, one event for each full circle. -/
theorem timerPeriodContract : Obligations.TimerPeriodContract := by
  intro s t ms hr _ hlt hm
  have h : TimerAt s.trld s.tcnt.toNat s := ⟨rfl, rfl, hlt⟩
  obtain ⟨htimer, hcount⟩ := h.of_run hr hm
  refine ⟨hcount, htimer.count, htimer.period, fun hn => ?_, fun h0 hn => ?_⟩
  · rw [hcount, hn, Nat.add_div_right _ (Nat.zero_lt_of_lt hlt), Nat.div_eq_of_lt hlt]
  · rw [hcount, h0]
    exact Nat.div_eq_of_lt (by simpa using hn)

/-! ### The commands -/

theorem encode_tconf (x : Sel) : encode (.tconf x) = 0x1000#16 ||| x.setWidth 16 := by
  have himm : (x.setWidth 8).setWidth 16 = x.setWidth 16 := BitVec.setWidth_setWidth (by decide)
  simp [Asm.encode_eq_or, Instr.opcode, Instr.operand, himm]

theorem encode_treload (v : Byte) : encode (.treload v) = 0x1100#16 ||| v.setWidth 16 := by
  simpa [Instr.opcode, Instr.operand] using Asm.encode_eq_or (.treload v)

/-- Settles O27: the code is the encoder's, and with selector 0 CLOCK finds the timer stopped. -/
theorem tconfSelectsAndRestarts : Obligations.TconfSelectsAndRestarts := by
  refine ⟨fun x hx => ?_, fun x s _ hc => ?_⟩
  · rw [← encode_tconf]
    exact decode_encode (decide_eq_true hx) rfl
  · refine ⟨_, exec_tconf hc x, rfl, rfl, rfl, by simp [onlyChanges_iff], fun h0 => ?_⟩
    simp [mayStep, h0]

/-- Settles O28: the count restarts at 0, below any legal reload value, and CLOCK looks at the selector, which stays. -/
theorem treloadSetsThePeriod : Obligations.TreloadSetsThePeriod := by
  refine ⟨fun v hv => ?_, fun v s hv hc => ?_⟩
  · rw [← encode_treload]
    exact decode_encode (decide_eq_true hv) rfl
  · have hbelow : (0 : Byte).toNat < v.toNat := by bv_omega
    exact ⟨_, exec_treload hc v, rfl, rfl, rfl, by simp [onlyChanges_iff], hbelow, rfl⟩

/-- INIT with the validated selector sets TIE, with any other it leaves TIE as it is (R142, R143). -/
theorem exec_init_tie {x : Sel} {s t : State} (h : exec (.init x) s = .next t) (ht : s.tie = true) : t.tie = true := by
  obtain ⟨c, -, ⟨-, rfl⟩ | ⟨-, rfl⟩⟩ := exec_init_cases h
  · exact ht
  · rfl

/-- Settles O29: of the steps listed for TIE, TINST only sets it and INIT never clears it. -/
theorem tinstInstallsTheHandler : Obligations.TinstInstallsTheHandler := by
  refine ⟨rfl, fun s hc => ?_, fun i s t h hs ht => ?_⟩
  · exact ⟨_, exec_tinst hc, rfl, rfl, by simp [onlyChanges_iff], fun htie => by simp [onlyChanges_iff, htie]⟩
  · obtain ⟨-, -, -, -, -, -, htie, -⟩ := onlyTheListedStepsWrite i s t h
    rcases htie (by simp [hs, ht]) with rfl | hrst | ⟨x, rfl⟩
    · obtain rfl : t = _ := exec_plain_cases h
      cases ht
    · exact hrst
    · exact absurd (exec_init_tie h hs) (ne_true_of_eq_false ht)

/-! ### The tick -/

/-- An event that finds the previous one waiting for an installed handler adds the record fault, and stops nothing (R163, R200). -/
theorem timerEvent_overrun {s : State} (hp : s.pend = true) (ht : s.tie = true) :
    AddsFault .overrun s (timerEvent s) ∧ (timerEvent s).stopped = s.stopped := by
  have hfault : (timerEvent s).fault = (s.recordFault .overrun).fault := by simp [timerEvent_eq, hp, ht]
  constructor
  · intro x
    rw [hfault]
    exact addsFault_recordFault s .overrun x
  · rw [stopped_congr hfault, stopped_recordFault]
    rfl

/-- Settles O30: the reload value unset, a tick within the period, and the timer event that finds or does not find the previous one
waiting. -/
theorem tickCountsOnePeriod : Obligations.TickCountsOnePeriod := by
  refine ⟨rfl, fun s hc => ?_⟩
  by_cases h0 : s.trld = 0
  · refine ⟨_, exec_tick_unset hc h0, ?_⟩
    rw [if_pos h0]
    exact recordFault_stops rfl s
  rcases Nat.lt_or_ge (s.tcnt.toNat + 1) s.trld.toNat with hlt | hge
  · refine ⟨_, exec_tick_count hc h0 hlt, ?_⟩
    rw [if_neg h0, if_pos hlt]
    exact ⟨toNat_add_one_of_lt hlt, by simp [onlyChanges_iff]⟩
  · refine ⟨_, exec_tick_event hc h0 hge, ?_⟩
    rw [if_neg h0, if_neg (Nat.not_lt.mpr hge)]
    split
    next hlost =>
      obtain ⟨hadds, hstopped⟩ := timerEvent_overrun (s := { s with tcnt := 0 }) hlost.1 hlost.2
      exact ⟨by simp [timerEvent_eq], by simp [timerEvent_eq], hadds, hstopped, by simp [timerEvent_eq, onlyChanges_iff]⟩
    next hkept => exact ⟨by simp [timerEvent_eq], by simp [timerEvent_eq], by simp [timerEvent_eq, onlyChanges_iff, hkept]⟩

end Sys2Proof.Machine
end

section
/-! The port: the commands PDIR, PHIGH and PLOW pin by pin, and the strobe pins moving together (44_gpio.md R175 to R178). -/

namespace Sys2Proof.Machine

/-! ### The codes -/

theorem encode_pdir (m : Byte) : encode (.pdir m) = 0x2000#16 ||| m.setWidth 16 := by
  simpa [Instr.opcode, Instr.operand] using Asm.encode_eq_or (.pdir m)

theorem encode_phigh (m : Byte) : encode (.phigh m) = 0x2100#16 ||| m.setWidth 16 := by
  simpa [Instr.opcode, Instr.operand] using Asm.encode_eq_or (.phigh m)

theorem encode_plow (m : Byte) : encode (.plow m) = 0x2200#16 ||| m.setWidth 16 := by
  simpa [Instr.opcode, Instr.operand] using Asm.encode_eq_or (.plow m)

/-! ### One pin -/

theorem pin_of_output {s : State} {i : Nat} (h : s.dir.getLsbD i = true) :
    pin s i = if s.lvl.getLsbD i then .high else .low := by
  simp [pin, h]

/-- A pin shows its own direction, and as an output its own level (R36). -/
theorem pin_congr {s t : State} {i : Nat} (hdir : t.dir.getLsbD i = s.dir.getLsbD i)
    (hlvl : s.dir.getLsbD i = true → t.lvl.getLsbD i = s.lvl.getLsbD i) : pin t i = pin s i := by
  unfold pin
  rw [hdir]
  split
  next h => rw [hlvl h]
  · rfl

theorem pin_makeOutput_of_mem {m : Byte} {s : State} {i : Nat} (h : m.getLsbD i = true) :
    pin (s.makeOutput m).advance i = if s.lvl.getLsbD i then .high else .low :=
  pin_of_output (by simp [h])

theorem pin_makeOutput_of_not_mem {m : Byte} {s : State} {i : Nat} (h : m.getLsbD i = false) :
    pin (s.makeOutput m).advance i = pin s i :=
  pin_congr (by simp [h]) fun _ => rfl

theorem pin_driveHigh_of_mem {m : Byte} {s : State} {i : Nat} (h : m.getLsbD i = true) (hdir : s.dir.getLsbD i = true) :
    pin (s.driveHigh m).advance i = .high :=
  pin_eq_high.mpr ⟨hdir, by simp [h]⟩

/-- PHIGH shows on no pin off its mask and on no input (R176). -/
theorem pin_driveHigh_eq {m : Byte} {s : State} {i : Nat} (h : m.getLsbD i = false ∨ s.dir.getLsbD i = false) :
    pin (s.driveHigh m).advance i = pin s i := by
  refine pin_congr rfl fun hdir => ?_
  have hoff : m.getLsbD i = false := h.resolve_right (ne_false_of_eq_true hdir)
  simp [hoff]

theorem pin_driveLow_of_mem {m : Byte} {s : State} {i : Nat} (h : m.getLsbD i = true) (hdir : s.dir.getLsbD i = true) :
    pin (s.driveLow m).advance i = .low :=
  pin_eq_low.mpr ⟨hdir, by simp [h]⟩

/-- PLOW shows on no pin off its mask and on no input (R177). -/
theorem pin_driveLow_eq {m : Byte} {s : State} {i : Nat} (h : m.getLsbD i = false ∨ s.dir.getLsbD i = false) :
    pin (s.driveLow m).advance i = pin s i := by
  refine pin_congr rfl fun hdir => ?_
  have hoff : m.getLsbD i = false := h.resolve_right (ne_false_of_eq_true hdir)
  simpa [hoff] using fun _ => BitVec.lt_of_getLsbD hdir

/-! ### The directions -/

/-- Every instruction but RST only adds outputs (R175). -/
theorem exec_dir_cases {i : Instr} {s t : State} (h : exec i s = .next t) : i = .rst ∨ ∃ m, t.dir = s.dir ||| m := by
  by_cases hsame : t.dir = s.dir
  · exact .inr ⟨0, hsame.trans BitVec.or_zero.symm⟩
  obtain ⟨-, -, -, -, -, -, -, -, -, -, -, hdir, -⟩ := onlyTheListedStepsWrite i s t h
  rcases hdir hsame with hrst | ⟨x, rfl⟩ | ⟨m, rfl⟩
  · exact .inl hrst
  · obtain ⟨c, -, ⟨-, rfl⟩ | ⟨-, rfl⟩⟩ := exec_init_cases h
    · exact absurd rfl hsame
    · exact .inr ⟨c.mask, rfl⟩
  · obtain rfl : t = _ := exec_plain_cases h
    exact .inr ⟨m, rfl⟩

theorem and_not_or_eq_zero (x m : Byte) : x &&& ~~~(x ||| m) = 0 := by
  rw [BitVec.and_comm]
  exact and_eq_zero_iff.mpr fun i hi => by simp [hi]

/-- Settles O32: the codes are the encoder's, each command's update is read pin by pin, and outputs are only ever added but by RST. -/
theorem portCommandsWriteTheirMask : Obligations.PortCommandsWriteTheirMask := by
  refine ⟨fun m => ?_, fun i s t h hclear => ?_, fun m s hc => ⟨?_, ?_, ?_⟩⟩
  · rw [← encode_pdir, ← encode_phigh, ← encode_plow]
    exact ⟨decode_encode rfl rfl, decode_encode rfl rfl, decode_encode rfl rfl⟩
  · refine (exec_dir_cases h).resolve_right fun ⟨m, hm⟩ => hclear ?_
    rw [hm, and_not_or_eq_zero]
  · exact ⟨_, exec_pdir hc m, rfl, by simp [onlyChanges_iff], rfl, fun _ => pin_makeOutput_of_mem,
      fun _ => pin_makeOutput_of_not_mem⟩
  · exact ⟨_, exec_phigh hc m, rfl, by simp [onlyChanges_iff], rfl, fun _ => pin_driveHigh_of_mem, fun _ => pin_driveHigh_eq⟩
  · exact ⟨_, exec_plow hc m, rfl, by simp [onlyChanges_iff], rfl, fun _ => pin_driveLow_of_mem, fun _ => pin_driveLow_eq⟩

/-! ### The strobe pins -/

/-- INIT, IRQ and POLLA write the levels of all the strobe pins together, or none (R121, R122, R127, R142). -/
theorem exec_lvl_cases {i : Instr} {s t : State} {c : Cfg} (hc : s.cfg? = some c)
    (hi : i = .irq ∨ i = .polla ∨ ∃ x, i = .init x) (h : exec i s = .next t) :
    t.lvl = s.lvl ∨ t.lvl = s.lvl ||| c.mask ∨ t.lvl = s.lvl &&& ~~~c.mask := by
  rcases hi with rfl | rfl | ⟨x, rfl⟩
  · cases hv : s.cnt with
    | none =>
      cases h.symm.trans (exec_irq_undef hc hv)
      exact .inl rfl
    | some v =>
      obtain ⟨hlvl, -⟩ := exec_irq_pins hc hv h
      split at hlvl
      · exact .inr (.inl hlvl)
      · exact .inl hlvl
  · obtain ⟨c', hc', ⟨-, rfl⟩ | ⟨-, rfl⟩ | ⟨-, rfl⟩⟩ := exec_polla_cases h
    · exact .inl rfl
    · cases hc.symm.trans hc'
      exact .inr (.inr rfl)
    · exact .inl rfl
  · obtain ⟨c', hc', ⟨-, rfl⟩ | ⟨-, rfl⟩⟩ := exec_init_cases h
    · exact .inl rfl
    · cases hc.symm.trans hc'
      exact .inr (.inr rfl)

/-- Settles O33: raised or lowered together the strobe pins are at one level, and OFF needs an empty mask, an input or two levels. -/
theorem strobePinsMoveTogether : Obligations.StrobePinsMoveTogether := by
  refine ⟨fun i s t c hc hi hone h => ?_, fun s c hc hmask hdir hone hoff => ?_⟩
  · rcases exec_lvl_cases hc hi h with hlvl | hlvl | hlvl <;> rw [hlvl]
    · exact hone
    · exact .inr (or_and_mask s.lvl c.mask)
    · exact .inl (and_not_and_mask s.lvl c.mask)
  · rcases (strobe_eq_off hc).mp hoff with hempty | hinput | ⟨hne1, hne0⟩
    · exact hmask hempty
    · exact hinput hdir
    · exact hone.elim hne0 hne1

end Sys2Proof.Machine
end

section
/-! Agents and faults: the fault a step records, who may step, the interrupt and its pending event (60_exceptions.md). -/

namespace Sys2Proof.Machine

/-! ### The fault a step records -/

/-- The stop fault an instruction raises in a state, and the condition it raises it on (R202). -/
inductive Raises (s : State) : Instr → FaultEntry → Prop
  | init {c : Cfg} {x : Sel} (hc : s.cfg? = some c) (hx : x ≠ c.sel) : Raises s (.init x) (.cfgMismatch s.mpc x)
  | polls (hv : s.cnt = none) : Raises s .polls (.undefCntPolls s.mpc)
  | polla (hd : s.pdec = none) : Raises s .polla (.undefDec s.mpc)
  | irq (hv : s.cnt = none) : Raises s .irq .undefCntIrq
  | tick (h0 : s.trld = 0) : Raises s .tick .reloadUnset

theorem Raises.isStop {s : State} {i : Instr} {e : FaultEntry} (h : Raises s i e) : e.isStop = true := by
  cases h <;> rfl

/-- What an instruction does to FAULT: nothing, or it raises its stop fault and does nothing else, or it is a tick with its timer
event (R163, R201, R202). -/
theorem exec_fault_cases {i : Instr} {s t : State} (h : exec i s = .next t) :
    t.fault = s.fault ∨ (∃ e, Raises s i e ∧ t = s.recordFault e) ∨ (i = .tick ∧ t = timerEvent { s with tcnt := 0 }) := by
  cases i with
  | init x =>
    obtain ⟨c, hc, ⟨hx, ht⟩ | ⟨-, rfl⟩⟩ := exec_init_cases h
    · exact .inr (.inl ⟨_, .init hc hx, ht⟩)
    · exact .inl rfl
  | polls =>
    obtain ⟨c, -, ⟨hv, ht⟩ | ⟨v, -, ⟨-, rfl⟩ | ⟨-, -, rfl⟩ | ⟨-, -, rfl⟩⟩⟩ := exec_polls_cases h
    · exact .inr (.inl ⟨_, .polls hv, ht⟩)
    all_goals exact .inl rfl
  | polla =>
    obtain ⟨c, -, ⟨hd, ht⟩ | ⟨-, rfl⟩ | ⟨-, rfl⟩⟩ := exec_polla_cases h
    · exact .inr (.inl ⟨_, .polla hd, ht⟩)
    all_goals exact .inl rfl
  | irq =>
    obtain ⟨c, -, ⟨hv, ht⟩ | ⟨v, -, rfl⟩⟩ := exec_irq_cases h
    · exact .inr (.inl ⟨_, .irq hv, ht⟩)
    · exact .inl (by simp [handlerBody_eq])
  | tick =>
    rcases exec_tick_cases h with ⟨h0, ht⟩ | ⟨-, -, ht⟩ | ⟨-, -, rfl⟩
    · exact .inr (.inl ⟨_, .tick h0, ht⟩)
    · exact .inr (.inr ⟨rfl, ht⟩)
    · exact .inl rfl
  | rst | enable | tconf _ | treload _ | tinst | pdir _ | phigh _ | plow _ | loop _ | validate =>
    obtain rfl : t = _ := exec_plain_cases h
    exact .inl rfl

/-- The pair a step that raises a fault has added is that fault's. -/
theorem eq_of_mem_recordFault {s : State} {e x : FaultEntry} (hx : x ∈ (s.recordFault e).fault) (hxs : x ∉ s.fault) : x = e :=
  (FaultSet.mem_insert.mp hx).resolve_right hxs

/-- Settles O26: the fetch, the decoder and the command are reached one after the other, and each that raises a fault ends the step
with that pair alone added. -/
theorem mainFaultsInOrder : Obligations.MainFaultsInOrder := by
  intro s t x h hx hxs
  have hc : s.cfg?.isSome = true := agentStep_cfg (a := .main) h
  cases hw : progFetch s s.mpc with
  | none =>
    have hlen := progFetch_eq_none.mp hw
    cases h.symm.trans (mainStep_range hc hlen)
    exact .inl ⟨hlen, eq_of_mem_recordFault hx hxs⟩
  | some w =>
    cases hd : decode w with
    | error e =>
      cases h.symm.trans (mainStep_illegal hc hw hd)
      exact .inr (.inl ⟨w, e, rfl, hd, eq_of_mem_recordFault hx hxs⟩)
    | ok i =>
      rw [mainStep_command hc hw hd] at h
      have hcommand := (decode_ok hd).1
      refine .inr (.inr ⟨w, i, rfl, hd, ?_⟩)
      rcases exec_fault_cases h with hsame | ⟨e, hraise, rfl⟩ | ⟨rfl, -⟩
      · exact absurd (hsame ▸ hx) hxs
      · obtain rfl := eq_of_mem_recordFault hx hxs
        cases hraise with
        | init hc hne => exact .inl ⟨_, _, rfl, hc, hne, rfl⟩
        | polls hv => exact .inr (.inl ⟨rfl, hv, rfl⟩)
        | polla hundef => exact .inr (.inr ⟨rfl, hundef, rfl⟩)
        | irq | tick => cases hcommand
      · cases hcommand

/-- An agent's step raises a stop fault at the fetch or executes one instruction, and CLOCK alone executes TICK (R140, R210). -/
theorem agentStep_stop_or_exec {a : Agent} {s t : State} (h : agentStep a s = .next t) :
    (∃ e, e.isStop = true ∧ t = s.recordFault e) ∨ ∃ i, (i = .tick → a = .clock) ∧ exec i s = .next t := by
  cases a with
  | main =>
    rcases mainStep_cases h with ⟨-, ht⟩ | ⟨w, -, ht⟩ | ⟨w, i, -, hd, hx⟩
    · exact .inl ⟨_, rfl, ht⟩
    · exact .inl ⟨_, rfl, ht⟩
    · exact .inr ⟨i, fun hi => absurd hd (decode_ne_ok_of_event (hi ▸ rfl) w), hx⟩
  | irq => exact .inr ⟨.irq, nofun, h⟩
  | clock => exact .inr ⟨.tick, fun _ => rfl, h⟩

/-- What an agent's step does to FAULT: nothing, or it raises a stop fault and does nothing else, or it is a tick with its timer event
(R163, R201). -/
theorem agentStep_fault_cases {a : Agent} {s t : State} (h : agentStep a s = .next t) :
    t.fault = s.fault ∨ (∃ e, e.isStop = true ∧ t = s.recordFault e) ∨
      (a = .clock ∧ t = timerEvent { s with tcnt := 0 }) := by
  rcases agentStep_stop_or_exec h with hstop | ⟨i, hclock, hx⟩
  · exact .inr (.inl hstop)
  · rcases exec_fault_cases hx with hsame | ⟨e, hraise, ht⟩ | ⟨hi, ht⟩
    · exact .inl hsame
    · exact .inr (.inl ⟨e, hraise.isStop, ht⟩)
    · exact .inr (.inr ⟨hclock hi, ht⟩)

theorem FaultEntry.isStop_eq_false {e : FaultEntry} : e.isStop = false ↔ e = .overrun := by
  cases e <;> simp [FaultEntry.isStop]

/-- A timer event, lost or not, stops nothing (R163, R200). -/
@[simp] theorem stopped_timerEvent (s : State) : (timerEvent s).stopped = s.stopped := by
  rcases timerEvent_cases s with ⟨hp, ht, -⟩ | ⟨-, e⟩
  · exact (timerEvent_overrun hp ht).2
  · exact stopped_congr (by rw [e])

/-! ### Who may step -/

theorem stopped_eq_false_iff {s : State} : s.stopped = false ↔ ∀ e ∈ s.fault, e.isStop = false := by
  simp [State.stopped]

/-- Where the machine exists its step is that of an agent that may step, the choice taken (R210). -/
theorem step_agentStep {s t : State} (hc : s.cfg?.isSome = true) (h : step s = .next t) :
    ∃ a l n, mayStep s a = true ∧ agentStep a { s with sched := l, choices := n } = .next t := by
  rcases step_cases h with ⟨hn, -⟩ | ⟨c, a, u, -, hp, hx⟩
  · obtain ⟨c, d, hv⟩ := cfg?_isSome_verdict hc
    cases hn.symm.trans hv
  · obtain ⟨hmay, l, n, rfl⟩ := pick_some hp
    exact ⟨a, l, n, hmay, hx⟩

/-- Settles O48: who may step is read off FAULT, the enables, PEND and TSEL; what is picked may step, and the first coming choice that
may step is picked. -/
theorem agentsStepWhenTheyMay : Obligations.AgentsStepWhenTheyMay := by
  refine ⟨fun s => ?_, fun s t => step_agentStep, fun s a l hc hmay => step_picked hc (pick_sched hmay rfl)⟩
  rw [← stopped_eq_false_iff]
  refine ⟨?_, mayStep_irq.trans deliverable_iff, mayStep_clock⟩
  rw [mayStep_main, ← Bool.not_eq_true s.deliverable, deliverable_iff]
  exact and_congr_right fun hrun => by simp [hrun]

/-- A machine that exists is stuck exactly when a stop fault is recorded (R200). -/
theorem step_quiescent_iff {s : State} (hc : s.cfg?.isSome = true) : step s = .fault .quiescent ↔ s.stopped = true := by
  rw [← Bool.not_eq_false, ← some_mayStep, not_exists]
  cases hp : pick s with
  | none => simp [step_quiescent hc hp, pick_none.mp hp]
  | some p =>
    obtain ⟨a, u⟩ := p
    obtain ⟨hmay, l, n, rfl⟩ := pick_some hp
    obtain ⟨t, ht⟩ := agentStep_completes a (s := { s with sched := l, choices := n }) hc
    simpa [step_picked hc hp, ht] using ⟨a, hmay⟩

/-- Settles O50: of what a step can do to FAULT only a stop fault stops the machine, and only a timer event adds F_OVERRUN. -/
theorem stopFaultsStopTheMachine : Obligations.StopFaultsStopTheMachine := by
  refine ⟨fun e => FaultEntry.isStop_eq_false, fun a s t h hrun hstop => ?_, fun s a hstop => ?_,
    fun s hc => step_quiescent_iff hc, fun a s t h hx hxs => ?_⟩
  · rcases agentStep_fault_cases h with hsame | ⟨e, he, rfl⟩ | ⟨-, rfl⟩
    · exact absurd ((stopped_congr hsame).trans hrun) (ne_false_of_eq_true hstop)
    · exact ⟨onlyChanges_recordFault s e, e, he, addsFault_recordFault s e⟩
    · exact absurd ((stopped_timerEvent { s with tcnt := 0 }).trans hrun) (ne_false_of_eq_true hstop)
  · exact eq_false_of_ne_true fun hmay => ne_false_of_eq_true hstop (some_mayStep.mp ⟨a, hmay⟩)
  · rcases agentStep_fault_cases h with hsame | ⟨e, he, rfl⟩ | ⟨ha, rfl⟩
    · exact absurd (hsame ▸ hx) hxs
    · obtain rfl := eq_of_mem_recordFault hx hxs
      cases he
    · exact ⟨ha, stopped_timerEvent _, by simp [timerEvent_eq], by simp [timerEvent_eq]⟩

/-! ### The interrupt -/

/-- An event keeps MAIN's place in its program (R209, R211). -/
theorem exec_event_keeps_place {i : Instr} {s t : State} (hi : i.isCommand = false) (h : exec i s = .next t) :
    t.mpc = s.mpc ∧ t.msub = s.msub ∧ t.pdec = s.pdec ∧ t.latlo = s.latlo := by
  obtain ⟨-, hpdec, hlatlo, hmsub, hmpc, -⟩ := onlyTheListedStepsWrite i s t h
  have hpolls : i ≠ .polls := by
    rintro rfl
    cases hi
  refine ⟨?_, ?_, ?_, ?_⟩ <;> by_contra hne
  · exact absurd (hmpc hne) (ne_true_of_eq_false hi)
  · exact hpolls (hmsub hne).1
  · exact hpolls (hpdec hne)
  · exact hpolls (hlatlo hne).1

/-- Entering the handler with CNT written clears PEND (R209). -/
theorem exec_irq_pend {s t : State} {v : Word} (hv : s.cnt = some v) (h : exec .irq s = .next t) : t.pend = false := by
  obtain ⟨c, -, ⟨hn, -⟩ | ⟨v', -, rfl⟩⟩ := exec_irq_cases h
  · cases hn.symm.trans hv
  · simp [handlerBody_eq]

/-- Settles O49: MAIN may not step while the interrupt is deliverable, the two events write none of MAIN's place, and the handler has
cleared PEND. -/
theorem interruptPreemptsMain : Obligations.InterruptPreemptsMain := by
  refine ⟨fun s t hc hdel h => ?_, fun s t v hv h => by simp [State.deliverable, exec_irq_pend hv h]⟩
  obtain ⟨a, l, n, hmay, hx⟩ := step_agentStep hc h
  cases a with
  | main => exact absurd hdel (ne_true_of_eq_false (mayStep_main.mp hmay).2)
  | irq => exact ⟨⟨l, n, .inl hx⟩, exec_event_keeps_place (i := .irq) (s := { s with sched := l, choices := n }) rfl hx⟩
  | clock => exact ⟨⟨l, n, .inr hx⟩, exec_event_keeps_place (i := .tick) (s := { s with sched := l, choices := n }) rfl hx⟩

/-- Of the instructions that write PEND only TICK sets it (R163, R211). -/
theorem exec_pend_set {i : Instr} {s t : State} (h : exec i s = .next t) (hs : s.pend = false) (ht : t.pend = true) : i = .tick := by
  obtain ⟨-, -, -, -, -, -, -, hpend, -⟩ := onlyTheListedStepsWrite i s t h
  rcases hpend (by simp [hs, ht]) with htick | rfl | rfl | ⟨x, rfl⟩
  · exact htick
  · obtain ⟨c, -, ⟨-, rfl⟩ | ⟨v, hv, -⟩⟩ := exec_irq_cases h
    · cases hs.symm.trans ht
    · cases (exec_irq_pend hv h).symm.trans ht
  · obtain rfl : t = _ := exec_plain_cases h
    cases ht
  · obtain ⟨c, -, ⟨-, rfl⟩ | ⟨-, rfl⟩⟩ := exec_init_cases h
    · cases hs.symm.trans ht
    · cases ht

/-- Settles O53: CLOCK alone executes TICK, which sets PEND and never clears it; of MAIN's commands RST and INIT clear it. -/
theorem pendingEventsWait : Obligations.PendingEventsWait := by
  intro a s t h
  refine ⟨fun hs ht => ?_, fun hs ht => ?_⟩
  · rcases agentStep_stop_or_exec h with ⟨e, -, rfl⟩ | ⟨i, hclock, hx⟩
    · cases hs.symm.trans ht
    · exact hclock (exec_pend_set hx hs ht)
  · by_cases ha : a = .irq
    · exact .inl ha
    rcases agentStep_cases_of_ne_irq h ha with ⟨e, rfl⟩ | ⟨-, hx⟩ | ⟨rfl, i, hi, hn, hx⟩
    · cases hs.symm.trans ht
    · cases (exec_tick_pend hx hs).symm.trans ht
    · rcases (initIsACommandSequence.2 i s t hx).2 hs ht with rfl | rfl | ⟨x, rfl⟩
      · exact .inr ⟨rfl, .inl hn⟩
      · cases hi
      · exact .inr ⟨rfl, .inr ⟨x, hn⟩⟩

end Sys2Proof.Machine
end

section
/-! Launch and restart: the launch state, RST beside it, and INIT with ENABLE from any state of a launch (70_reset_and_hazards.md R230,
R231, R240). -/

namespace Sys2Proof.Machine

/-! ### The launch state -/

theorem sameLaunch_relaunch (s : State) : SameLaunch s s.relaunch := ⟨rfl, rfl, rfl, rfl⟩

/-- At launch every pin is an input, and without a machine there is no STROBE (R36, R230). -/
theorem strobe_relaunch (s : State) : strobe s.relaunch = .off := by
  cases hc : s.relaunch.cfg? with
  | some c => exact strobe_eq_off_of_dir (cfg?_isSome hc) rfl
  | none => simp [strobe, hc]

/-- Settles O57: with interrupts disabled, the timer stopped and no fault recorded MAIN alone may step. -/
theorem launchState : Obligations.LaunchState := by
  intro s
  have hstopped : s.relaunch.stopped = false := rfl
  have hdeliverable : s.relaunch.deliverable = false := rfl
  exact ⟨rfl, rfl, rfl, rfl, rfl, rfl, rfl, rfl, rfl, rfl, rfl, rfl, rfl, rfl, sameLaunch_relaunch s,
    mayStep_main.mpr ⟨hstopped, hdeliverable⟩, hdeliverable, by simp [mayStep], strobe_relaunch s⟩

/-- Before the first INIT, with no split read under way, the invariant asks of the program store its length alone (R50). -/
theorem Invariant.withProgram {s : State} (hi : Invariant s) (hcnt : s.cnt = none) (hmsub : s.msub = false) {p : List Word}
    (hp : p.length ≤ 256) : Invariant { s with prog := p } :=
  { hi with
    cntRange := fun _ _ _ hv => absurd (hcnt.symm.trans hv) (by simp)
    progMax := hp
    splitHeld := fun hm => absurd hm (ne_true_of_eq_false hmsub) }

/-- Settles O56: with one word loaded the reset state is a launch, and its invariant does not depend on what is loaded. -/
theorem resetMeetsTheInvariant : Obligations.ResetMeetsTheInvariant := by
  have hlaunch : IsLaunch { State.reset with prog := [0x0000] } := ⟨rfl, rfl⟩
  exact ⟨(Invariant.of_isLaunch hlaunch).withProgram (p := []) rfl rfl (by simp), rfl⟩

/-! ### RST -/

theorem onlyChanges_advance (s : State) : OnlyChanges [.mpc] s s.advance := by
  simp [onlyChanges_iff]

/-- At launch the peripheral registers hold the values RST gives them (R231). -/
theorem resetPeripherals_relaunch (s : State) : resetPeripherals s.relaunch = s.relaunch := rfl

/-- Settles O17: RST writes the launch values of eight registers, and advances MPC. -/
theorem rstIsNoLaunch : Obligations.RstIsNoLaunch := by
  refine ⟨fun s hc => ?_, fun s hc => ?_⟩
  · exact ⟨_, exec_rst hc, by simp [Reg.same, resetPeripherals], by simp [Reg.same, resetPeripherals], rfl⟩
  · have hx := exec_rst (s := s.relaunch) ((sameLaunch_relaunch s).cfg? ▸ hc)
    rw [resetPeripherals_relaunch] at hx
    exact ⟨_, hx, onlyChanges_advance _⟩

/-! ### INIT and ENABLE -/

/-- Where INIT with the validated selector and ENABLE lead (R142, R144). -/
def restarted (c : Cfg) (s : State) : State := { initialise c s with gie := true }.advance

theorem execAll_init_enable {s : State} {c : Cfg} (hc : s.cfg? = some c) :
    execAll [.init c.sel, .enable] s = .next (restarted c s) :=
  execAll_cons (exec_init_match hc) <| execAll_single <| exec_enable (s := initialise c s) (cfg?_isSome hc)

/-- The registers a restart writes, each from the configuration, its own value before, or a constant. -/
theorem restarted_eq (c : Cfg) (s : State) :
    restarted c s =
      { s with
        gie := true
        cnt := some (initv s.params.countDir c)
        lvl := s.lvl &&& ~~~c.mask
        dir := s.dir ||| c.mask
        tsel := c.sel
        trld := c.reload
        tcnt := 0
        pend := false
        tie := true
        mpc := s.mpc + 1 + 1 } := rfl

/-- A restart leaves the strobe pins outputs at 0, as INIT does (R36, R142). -/
theorem strobe_restarted {s : State} {c : Cfg} (hc : s.cfg? = some c) (hm : c.mask ≠ 0) : strobe (restarted c s) = .zero :=
  (strobe_eq_zero (s := restarted c s) hc).mpr ⟨hm, or_and_mask s.dir c.mask, and_not_and_mask s.lvl c.mask⟩

/-- A restart leaves no trace of the state before it but in these registers. -/
theorem restarted_same (c : Cfg) {s s' : State} (hp : s'.params = s.params) :
    ∀ r : Reg, r ∉ [Reg.mpc, .pdec, .fault, .dir, .lvl, .latlo, .msub] → r.same (restarted c s) (restarted c s') :=
  Reg.forall_iff.mpr (by simp [Reg.same, restarted_eq, hp])

/-- Settles O59: what INIT and ENABLE write they write from the launch's configuration, the strobe pins among it; with an atomic read
LATLO and MSUB have never been written. -/
theorem restartReproducesTheStart : Obligations.RestartReproducesTheStart := by
  intro s s' c hi hi' hl hc
  have hc' : s'.cfg? = some c := hl.cfg?.trans hc
  refine ⟨_, _, execAll_init_enable hc, execAll_init_enable hc', restarted_same c hl.1, fun ha => ?_,
    fun hm hm' => hm.trans hm'.symm, rfl, rfl, ?_, ?_, fun hm => ⟨strobe_restarted hc hm, strobe_restarted hc' hm⟩⟩
  · obtain ⟨hmsub, hlatlo⟩ := hi.atomicNoSplit ha
    obtain ⟨hmsub', hlatlo'⟩ := hi'.atomicNoSplit (hl.1 ▸ ha)
    exact ⟨hlatlo.trans hlatlo'.symm, hmsub.trans hmsub'.symm⟩
  · exact (or_and_mask s.dir c.mask).trans (or_and_mask s'.dir c.mask).symm
  · exact (and_not_and_mask s.lvl c.mask).trans (and_not_and_mask s'.lvl c.mask).symm

end Sys2Proof.Machine
end

section
/-! A handler step inside a poll: between the halves of a split read, and between the read and the pin-low write
(70_reset_and_hazards.md R236, R238). -/

namespace Sys2Proof.Machine

/-! ### The torn read -/

theorem lowByte_toNat (v : Word) : (lowByte v).toNat = v.toNat % 256 := by
  simp [lowByte, BitVec.extractLsb'_toNat]

/-- A split read has the high byte of the counter now and the low byte latched before (R126). -/
theorem splitRead_toNat (now : Word) (lo : Byte) : (splitRead now lo).toNat = now.toNat / 256 * 256 + lo.toNat := by
  have hnow := now.isLt
  have hlo := lo.isLt
  simp only [splitRead, highByte, BitVec.toNat_append, BitVec.extractLsb'_toNat, Nat.shiftRight_eq_div_pow]
  rw [← Nat.shiftLeft_add_eq_or_of_lt hlo, Nat.shiftLeft_eq]
  omega

/-- Through a borrow the value read is a page below the one the poll started from (R238). -/
theorem splitRead_countNext_down {v : Word} (hlow : lowByte v = 0) (hv : 256 ≤ v.toNat) :
    (splitRead (countNext .down v) (lowByte v)).toNat = v.toNat - 256 := by
  have hmod : v.toNat % 256 = 0 := by rw [← lowByte_toNat, hlow]; rfl
  rw [splitRead_toNat, countNext_down_toNat (by omega), lowByte_toNat]
  omega

/-- Through a carry the value read is a page above the one the poll started from (R238). -/
theorem splitRead_countNext_up {v : Word} (hlow : lowByte v = 255) (hv : v.toNat < 65280) :
    (splitRead (countNext .up v) (lowByte v)).toNat = v.toNat + 256 := by
  have hmod : v.toNat % 256 = 255 := by rw [← lowByte_toNat, hlow]; rfl
  rw [splitRead_toNat, countNext_up_toNat (by omega), lowByte_toNat]
  omega

/-- A split read with one handler step between its halves, no Boundary, decides on the high byte after and the low byte before. -/
theorem execAll_tornPolls {s : State} {c : Cfg} {v : Word} (hc : s.cfg? = some c) (hv : s.cnt = some v)
    (ha : s.params.readAtomic = false) (hm : s.msub = false) (hb : atBoundary s.params.countDir c v = false) :
    ∃ t, execAll [.polls, .irq, .polls] s = .next t ∧ t.cnt = some (countNext s.params.countDir v) ∧
      t.pdec = some (dutyReached s.params.countDir c (splitRead (countNext s.params.countDir v) (lowByte v))) := by
  have hirq : handlerBody c v (State.enterHandler { s with latlo := some (lowByte v), msub := true }) =
      { s with latlo := some (lowByte v), msub := true, pend := false, cnt := some (countNext s.params.countDir v) } := by
    simp [handlerBody, hb, State.enterHandler]
  have hfirst := exec_polls_first hc hv ha hm
  have hbetween := exec_irq_some (s := { s with latlo := some (lowByte v), msub := true }) (c := c) hc hv
  rw [hirq] at hbetween
  exact ⟨_, execAll_cons hfirst <| execAll_cons hbetween <| execAll_single <| exec_polls_second (c := c) hc rfl ha rfl, rfl, rfl⟩

/-- Settles O46: neither counter value is a Boundary's, and the two bytes of the read come from either side of the borrow or carry. -/
theorem tornReadsMissByAPage : Obligations.TornReadsMissByAPage := by
  intro s c v hc hv ha hm
  have htorn := execAll_tornPolls hc hv ha hm
  refine ⟨fun hd hlow hpage => ?_, fun hd hlow hN hpage => ?_⟩
  · rw [hd] at htorn
    obtain ⟨t, hx, hcnt, hpdec⟩ := htorn (Bool.eq_false_iff.mpr (mt (atBoundary_down c v).mp (by omega)))
    refine ⟨t, hx, hcnt, ?_⟩
    rw [hpdec, dutyReached, splitRead_countNext_down hlow hpage]
    rfl
  · rw [hd] at htorn
    obtain ⟨t, hx, hcnt, hpdec⟩ := htorn (decide_eq_false hN)
    refine ⟨t, hx, hcnt, ?_⟩
    rw [hpdec, dutyReached, splitRead_countNext_up hlow hpage]
    rfl

/-! ### The clipped pulse -/

/-- A decision latched before a Boundary lowers the strobe pins just after it: POLLA makes its falling edge from the rising edge of the
handler step before it (R236). -/
theorem polla_clips_boundary {s : State} {c : Cfg} (hc : s.cfg? = some c) (hb : isBoundary s = true) (hs : strobe s = .zero)
    (hd : s.pdec = some true) :
    ∃ t u, exec .irq s = .next t ∧ exec .polla t = .next u ∧ risingEdge s t = true ∧ fallingEdge t u = true ∧
      u.cnt = some (initv s.params.countDir c) := by
  obtain ⟨v, hv, -⟩ := (isBoundary_iff hc).mp hb
  obtain ⟨t, ht⟩ := exec_completes .irq (cfg?_isSome hc)
  have hct : t.cfg? = some c := (exec_sameLaunch ht (by simp)).cfg?.trans hc
  obtain ⟨-, -, hkept, -⟩ := exec_event_keeps_place rfl ht
  obtain ⟨hmask, hdir, -⟩ := (strobe_eq_zero hc).mp hs
  obtain ⟨hedge, -⟩ := boundaryMakesTheRisingEdge s t c v hc hv ht
  have hrise : risingEdge s t = true := hedge.mpr ⟨hb, by simp [hs], hmask, hdir⟩
  obtain ⟨hone, -⟩ := risingEdge_eq_true.mp hrise
  have hcnt := exec_irq_cnt_of_isBoundary hc hb ht
  exact ⟨t, _, ht, exec_polla_true hct (hkept.trans hd), hrise, (fallingEdge_driveLow hct).mpr hone, hcnt⟩

/-- Settles O47: at CNT = 1 the read sees N - 1 periods elapsed, which is at least D, and the next handler step is the Boundary. -/
theorem clippedPulse : Obligations.ClippedPulse := by
  intro s c hi hc hv hd ha hs
  obtain ⟨-, hDN⟩ := D_bounds_of_cfg? hc
  have hreached : dutyReached s.params.countDir c 1 = true := by
    rw [dutyReached_eq_elapsed (hi.cntRange c 1 hc hv) (Nat.le_of_lt hDN), hd, decide_eq_true_iff]
    show c.D.toNat ≤ c.N.toNat - 1
    omega
  have hpdec : (decideDuty c 1 s).pdec = some true := congrArg some hreached
  have hboundary : isBoundary (decideDuty c 1 s) = true :=
    (isBoundary_iff (s := decideDuty c 1 s) hc).mpr ⟨1, hv, by simp [decideDuty, hd, atBoundary_down]⟩
  obtain ⟨u, v, hirq, hpolla, hrise, hfall, hcnt⟩ := polla_clips_boundary (s := decideDuty c 1 s) hc hboundary hs hpdec
  exact ⟨_, u, v, execAll_single (exec_polls_atomic hc hv ha), execAll_single hirq, execAll_single hpolla, hpdec, hrise, hfall,
    by simpa [decideDuty, hd, initv] using hcnt⟩

end Sys2Proof.Machine
end
